-- ==== Sys2Proof/Word.lean ====
section
/-! DEFINITION. The two value types of the engine: the 32-bit word (00_scope.md R6, R9) and the byte.
Arithmetic on words is that of bit vectors: `+` wraps modulo 2^32 and records no carry (R9); bit 0 is the
least significant bit (R8). Rotations and byte-order conversions stand in Machine/Operands.lean. -/

namespace Sys2Proof

/-- A 32-bit unsigned word (R6 WORD, R9). -/
abbrev Word := BitVec 32

/-- One byte of the message, of a block or of the digest (R6, R11). -/
abbrev Byte := BitVec 8

end Sys2Proof
end

