-- ==== Sys2Proof/Syntax.lean ====
section
/-! DEFINITION. The nine commands of the engine (30_encoding.md R75), one constructor per row of
spec/opcode_table.json, with the operands of R73. A field keeps the width it has in the command word, so an
operand out of its legal range can be written down; WellFormed.lean refuses it. -/

namespace Sys2Proof

/-- A command. `absorb` carries the data word too, its second operand (R73, R150); every other command
ignores the data word (R79). -/
inductive Instr where
  /-- NOP (40_init.md R100). -/
  | nop
  /-- INIT (40_init.md R101). -/
  | init
  /-- ABSORB N, data (42_absorb.md R150); N = cmd[2:0]. -/
  | absorb (n : BitVec 3) (data : Word)
  /-- FINALIZE (43_finalize.md R170). -/
  | finalize
  /-- RDSTAT (44_readback.md R191). -/
  | rdstat
  /-- RDDIG I (44_readback.md R192); I = cmd[2:0]. -/
  | rddig (i : BitVec 3)
  /-- RDH I (44_readback.md R193); I = cmd[2:0]. -/
  | rdh (i : BitVec 3)
  /-- RDBLK HALF (44_readback.md R195); HALF = cmd[0]. -/
  | rdblk (half : BitVec 1)
  /-- RDBUF (44_readback.md R197). -/
  | rdbuf
  deriving DecidableEq, Repr

/-- Why a command word is illegal (30_encoding.md R77). All three raise the same cause, ILLEGAL_CMD. -/
inductive Reject where
  /-- OP in 0x9..0xF. -/
  | reservedOp
  /-- A reserved bit of the format is not zero. -/
  | reservedBits
  /-- ABSORB with N in 5..7, or RDDIG or RDH with I in 5..7. -/
  | operandRange
  deriving DecidableEq, Repr

end Sys2Proof
end

