-- ==== Sys2Proof/WellFormed.lean ====
section
/-! DEFINITION. Which instructions the encoding admits: the legal operand ranges of 30_encoding.md R73 and R75. -/

namespace Sys2Proof

/-- The legal range of N and of I: 0..4 (R73). -/
def operandLegal (v : BitVec 3) : Bool := decide (v.toNat ≤ 4)

/-- An instruction is well-formed when its operand is in the legal range of R75; HALF takes both its values. -/
def Instr.wf : Instr → Bool
  | .nop => true
  | .init => true
  | .absorb n _ => operandLegal n
  | .finalize => true
  | .rdstat => true
  | .rddig i => operandLegal i
  | .rdh i => operandLegal i
  | .rdblk _ => true
  | .rdbuf => true

end Sys2Proof
end

