-- ==== Sys2Proof/Decode.lean ====
section
/-! DEFINITION. The decoder of 30_encoding.md R76, total on every pair of command and data word, which rejects
an illegal word by name (R77), and after it the encoder written from the same formats (R72, R75, R80). -/

namespace Sys2Proof

/-- OP = cmd[31:28] (R72). -/
def opField (cmd : Word) : BitVec 4 := cmd.extractLsb' 28 4

/-- N or I = cmd[2:0] (R73). -/
def operandField (cmd : Word) : BitVec 3 := cmd.extractLsb' 0 3

/-- HALF = cmd[0] (R73). -/
def halfField (cmd : Word) : BitVec 1 := cmd.extractLsb' 0 1

/-- Format Z: cmd[27:0] is reserved and must be zero (R72). -/
def decodeZ (cmd : Word) (i : Instr) : Except Reject Instr :=
  if cmd.extractLsb' 0 28 = 0#28 then .ok i else .error .reservedBits

/-- Formats N and I: cmd[27:3] is reserved and cmd[2:0] is an operand in 0..4 (R72, R73). -/
def decodeOperand (cmd : Word) (mk : BitVec 3 → Instr) : Except Reject Instr :=
  if cmd.extractLsb' 3 25 = 0#25 then
    if operandLegal (operandField cmd) then .ok (mk (operandField cmd)) else .error .operandRange
  else .error .reservedBits

/-- Format HF: cmd[27:1] is reserved and cmd[0] is HALF (R72, R73). -/
def decodeHF (cmd : Word) (mk : BitVec 1 → Instr) : Except Reject Instr :=
  if cmd.extractLsb' 1 27 = 0#27 then .ok (mk (halfField cmd)) else .error .reservedBits

/-- decode(cmd) of R76. The data word never affects whether or as what a word decodes; an ABSORB carries it on. -/
def decode (cmd data : Word) : Except Reject Instr :=
  match (opField cmd).toNat with
  | 0x0 => decodeZ cmd .nop
  | 0x1 => decodeZ cmd .init
  | 0x2 => decodeOperand cmd fun n => .absorb n data
  | 0x3 => decodeZ cmd .finalize
  | 0x4 => decodeZ cmd .rdstat
  | 0x5 => decodeOperand cmd .rddig
  | 0x6 => decodeOperand cmd .rdh
  | 0x7 => decodeHF cmd .rdblk
  | 0x8 => decodeZ cmd .rdbuf
  | _ => .error .reservedOp

/-- The command word of a format: OP in the top four bits, the operand in the low ones, zeros between (R72). -/
def commandWord (op : BitVec 4) (operand : Word) : Word := (op.setWidth 32 <<< 28) ||| operand

/-- The command and data words of an instruction (R72, R75, R80); an ignored data word is written 0. -/
def encode : Instr → Word × Word
  | .nop => (commandWord 0x0 0, 0)
  | .init => (commandWord 0x1 0, 0)
  | .absorb n data => (commandWord 0x2 (n.setWidth 32), data)
  | .finalize => (commandWord 0x3 0, 0)
  | .rdstat => (commandWord 0x4 0, 0)
  | .rddig i => (commandWord 0x5 (i.setWidth 32), 0)
  | .rdh i => (commandWord 0x6 (i.setWidth 32), 0)
  | .rdblk half => (commandWord 0x7 (half.setWidth 32), 0)
  | .rdbuf => (commandWord 0x8 0, 0)

/-- The command word among the first `nbits` bits of `w`: bits 31..0 (R70, R75; log 13). -/
def tableCommand (nbits w : Nat) : Word := BitVec.ofNat 32 (w % 2 ^ nbits)

/-- The data word among the first `nbits` bits of `w`: bits 63..32, so zero for a table row of 32 bits (R70; log 13). -/
def tableData (nbits w : Nat) : Word := BitVec.ofNat 32 (w % 2 ^ nbits / 2 ^ 32)

/-- What the decoder reads from an instruction whose bits are `w`, numbered as spec/opcode_table.json numbers them. -/
def decodeTableWord (nbits w : Nat) : Option Instr :=
  (decode (tableCommand nbits w) (tableData nbits w)).toOption

end Sys2Proof
end

