-- ==== Sys2Proof/Config.lean ====
section
/-! DEFINITION. What one implementation or platform fixes and the spec leaves open (00_scope.md R7), and the
free values: every value the spec calls unspecified AFTER an operation that completes. Each is a constant with
no body, so no proof can see what it is (log 5, 6, 11). The first argument of a free value is the model's
counter of free values drawn (`State.freeCount`). -/

namespace Sys2Proof.Config

/-- ENGINE_BASE: where a platform places the command port in its address map (R7, R57). No rule reads it. -/
opaque engineBase : Nat

/-- CMD_LATENCY(cmd): the time from accepting a command to its response (R7, R71, R255). No rule reads it. -/
opaque cmdLatency : Word → Nat

/-- What the window W[0..15] holds after a compression or an `rst` event (R26, R38, U10). -/
opaque freeW : Nat → Vector Word 16

/-- What A, B, C, D, E hold after a compression or an `rst` event (R27, R38, U10). -/
opaque freeVars : Nat → Vector Word 5

/-- What RC holds after a compression or an `rst` event; R28 bounds it to 0..80 (R28, R38, U10). -/
opaque freeRc : Nat → Fin 81

/-- What H[0..4] holds after an `rst` event (R38, R240, U8). -/
opaque freeH : Nat → Vector Word 5

/-- What BLKCNT holds after an `rst` event (R38, R240, U8). -/
opaque freeBlkcnt : Nat → BitVec 55

/-- What BUFCNT holds after an `rst` event; R24 bounds it to 0..63 at a command boundary (R24, R38, U8). -/
opaque freeBufcnt : Nat → Fin 64

/-- What DIGEST[0..19] holds after an `rst` event (R38, R240, U8). -/
opaque freeDigest : Nat → Vector Byte 20

end Sys2Proof.Config
end

