-- ==== Sys2Proof/Machine/State.lean ====
section
/-! DEFINITION. The engine's state as plain data (10_state.md R20..R34), the host's side of the port
(30_encoding.md R71), the reasons a step can stop, and the state right after reset (R38, R240). -/

namespace Sys2Proof.Machine

/-- PHASE, a 2-bit state with three legal values (R30). The value 3 is never produced and is not represented (log 12). -/
inductive Phase where
  /-- 0: no message state; after reset. -/
  | idle
  /-- 1: absorbing. -/
  | active
  /-- 2: after finalization. -/
  | consumed
  deriving DecidableEq, Repr

/-- CAUSE, a 4-bit code with seven legal values (R33, R210). The codes 7..15 are never produced and are not
represented (log 12). -/
inductive Cause where
  /-- 0 NONE: no error since INIT or reset. -/
  | none
  /-- 1 ILLEGAL_CMD (R211). -/
  | illegalCmd
  /-- 2 NOT_INIT (R212). -/
  | notInit
  /-- 3 ABSORB_AFTER_FINAL (R213). -/
  | absorbAfterFinal
  /-- 4 DOUBLE_FINALIZE (R213). -/
  | doubleFinalize
  /-- 5 DIGEST_NOT_VALID (R212). -/
  | digestNotValid
  /-- 6 LENGTH_OVERFLOW (R151). -/
  | lengthOverflow
  deriving DecidableEq, Repr

/-- The datapath state, live inside one compression only (R26, R27, R28). -/
structure Datapath where
  /-- W[0..15], the message-schedule window (R26). -/
  w : Vector Word 16
  /-- Working variable A (R27). -/
  a : Word
  /-- Working variable B (R27). -/
  b : Word
  /-- Working variable C (R27). -/
  c : Word
  /-- Working variable D (R27). -/
  d : Word
  /-- Working variable E (R27). -/
  e : Word
  /-- RC in 0..80, the index of the round being computed; 80 means the feed-forward is next (R28). -/
  rc : Fin 81
  deriving DecidableEq, Repr

/-- What the host does at the port (R70, R71, R240, R241). -/
inductive Request where
  /-- A command: the pair (cmd, data), accepted and answered in one step (R70, R55). -/
  | command (cmd data : Word)
  /-- `rst` asserted with no command in flight (R240). -/
  | reset
  /-- `rst` asserted while this command is in flight (R241; log 7). -/
  | commandReset (cmd data : Word)
  deriving DecidableEq, Repr

/-- The whole machine. -/
structure State where
  /-- H[0..4], the accumulator register file (R20). -/
  h : Vector Word 5
  /-- BLKCNT, the 55-bit block counter (R22). -/
  blkcnt : BitVec 55
  /-- BUF[0..63] as (index, byte) cells, indexes strictly rising; an unlisted byte has no value (R23, R25; log 4). -/
  buf : List Host.Cell
  /-- BUFCNT, the 7-bit count of valid leading bytes of BUF (R24). -/
  bufcnt : BitVec 7
  /-- W, A..E and RC (R26, R27, R28). -/
  dp : Datapath
  /-- DIGEST[0..19], the digest output register (R29). -/
  digest : Vector Byte 20
  /-- PHASE (R30). -/
  phase : Phase
  /-- DVALID (R31). -/
  dvalid : Bool
  /-- ERR, the sticky error bit (R32). -/
  err : Bool
  /-- CAUSE, the first error since INIT or reset (R33). -/
  cause : Cause
  /-- The ports req_valid, cmd, data and rst: what the host has put there and the engine has not yet accepted,
  oldest first (R71; log 1). -/
  port : List Request
  /-- The ports rsp_valid and rsp: the response word, none while rsp_valid = 0 (R71, R74; log 8). -/
  rsp : Option Word
  /-- The MODEL's own field: how many free values have been drawn (log 5). -/
  freeCount : Nat
  deriving DecidableEq, Repr

/-- The fault outcomes of 00_scope.md R13. -/
inductive Fault where
  /-- A caller-contract violation: the command set ERR from 0 to 1, and this is its CAUSE (R13, R214). Raised by
  `contractOutcome` and `contractStep`, the spec's three outcomes of a command. `exec` and `step` never end in it: the
  engine goes on accepting commands, so there the same command ends in the next state R214 gives. Safe: nothing is lost
  to either (log 2). -/
  | callerContract (cause : Cause)
  deriving DecidableEq, Repr

/-- Stops of the machine that are refusals. -/
inductive Refusal where
  /-- Raised by exec for an instruction that has no meaning yet; no instruction is left so. Safe. -/
  | notModelled (mnemonic : String)
  /-- Raised by ABSORB and FINALIZE when a compression would read a byte of BUF that holds no value: R13 has a
  model refuse a read of unspecified state. Safe: R242 (d) says no run from reset reaches it (log 4). -/
  | bufUnwritten
  /-- Raised by ABSORB of one byte or more, and by FINALIZE, in ACTIVE when BUFCNT is 64..127, values that R24
  says a command boundary never has, so no rule gives an effect. Safe: no run from reset reaches it (log 9). -/
  | bufcntOutOfRange
  /-- Raised by a compression whose block is not 64 bytes long (U6). Safe: ABSORB and FINALIZE build 64 bytes by
  construction (R110; log 9). -/
  | partialBlock
  deriving DecidableEq, Repr

/-- The datapath right after reset. The spec leaves W, A..E and RC unspecified (R38): zero is the model's choice (log 3). -/
def Datapath.reset : Datapath :=
  { w := #v[0, 0, 0, 0, 0, 0, 0, 0, 0, 0, 0, 0, 0, 0, 0, 0], a := 0, b := 0, c := 0, d := 0, e := 0, rc := 0 }

/-- The machine right after reset (R38, R240): PHASE, DVALID, ERR and CAUSE as the spec says; BUF unwritten (log 4);
H, BLKCNT, BUFCNT, DIGEST and the datapath, which the spec leaves unspecified, zero by the model's choice (log 3);
nothing at the port (log 1) and no response present (log 8). -/
def State.reset : State :=
  { h := #v[0, 0, 0, 0, 0]
    blkcnt := 0
    buf := []
    bufcnt := 0
    dp := Datapath.reset
    digest := #v[0, 0, 0, 0, 0, 0, 0, 0, 0, 0, 0, 0, 0, 0, 0, 0, 0, 0, 0, 0]
    phase := .idle
    dvalid := false
    err := false
    cause := .none
    port := []
    rsp := none
    freeCount := 0 }

end Sys2Proof.Machine
end

