-- ==== Sys2Proof/Machine/Flags.lean ====
section
/-! DEFINITION. The status view. The engine has no condition codes and no arithmetic sets a flag (10_state.md R36);
STATUS (R34) is assembled from PHASE, DVALID, ERR and CAUSE and has no storage of its own. -/

namespace Sys2Proof.Machine

/-- The 2-bit value of PHASE (R30). -/
def Phase.code : Phase → BitVec 2
  | .idle => 0
  | .active => 1
  | .consumed => 2

/-- The 4-bit value of CAUSE (R210). -/
def Cause.code : Cause → BitVec 4
  | .none => 0
  | .illegalCmd => 1
  | .notInit => 2
  | .absorbAfterFinal => 3
  | .doubleFinalize => 4
  | .digestNotValid => 5
  | .lengthOverflow => 6

/-- STATUS = zext_32(CAUSE ++ ERR ++ DVALID ++ PHASE) (R34). -/
def State.status (s : State) : Word :=
  (s.cause.code ++ BitVec.ofBool s.err ++ BitVec.ofBool s.dvalid ++ s.phase.code).setWidth 32

end Sys2Proof.Machine
end

