-- ==== Sys2Proof/Machine/Operands.lean ====
section
/-! DEFINITION. Rotation, byte order and operand forms: 00_scope.md R10 and R11, 20_memory.md R50, 30_encoding.md R73,
the word view of DIGEST (10_state.md R29), the halves of BLKCNT (44_readback.md R195) and the constant IV (R21). -/

namespace Sys2Proof.Machine

/-- ROTL_n(x) for 0 < n < 32 (R10). -/
def rotl (n : Nat) (x : Word) : Word := (x <<< n) ||| (x >>> (32 - n))

/-- WORD_BE(b0, b1, b2, b3) (R11). -/
def wordBE (b0 b1 b2 b3 : Byte) : Word :=
  (b0.setWidth 32 <<< 24) ||| (b1.setWidth 32 <<< 16) ||| (b2.setWidth 32 <<< 8) ||| b3.setWidth 32

/-- Byte k of a word in stream order, k = 0 the most significant: w[31-8k : 24-8k] (R11 BE32, R73 byte_k). -/
def wordByte (w : Word) (k : Nat) : Byte := w.extractLsb' (24 - 8 * k) 8

/-- BE32(w) (R11). -/
def be32 (w : Word) : List Byte := [wordByte w 0, wordByte w 1, wordByte w 2, wordByte w 3]

/-- BE64(v), most significant byte first (R11). -/
def be64 (v : BitVec 64) : List Byte :=
  [v.extractLsb' 56 8, v.extractLsb' 48 8, v.extractLsb' 40 8, v.extractLsb' 32 8,
    v.extractLsb' 24 8, v.extractLsb' 16 8, v.extractLsb' 8 8, v.extractLsb' 0 8]

/-- zeros(k): k bytes of 0x00 (R11). -/
def zeros (k : Nat) : List Byte := List.replicate k 0#8

/-- The bytes an ABSORB N takes from its data word: byte_k for k = 0..N-1 (R73, R50 (d), R150). -/
def dataBytes (n : BitVec 3) (data : Word) : List Byte := (be32 data).take n.toNat

/-- H[I], for I in its legal range 0..4 (R73, R193). -/
def accWord (h : Vector Word 5) (i : BitVec 3) : Option Word := h[i.toNat]?

/-- DIG[I] = WORD_BE(DIGEST[4I], DIGEST[4I+1], DIGEST[4I+2], DIGEST[4I+3]), for I in 0..4 (R29, R192). -/
def digestWord (digest : Vector Byte 20) (i : BitVec 3) : Option Word :=
  if _ : i.toNat < 5 then
    some (wordBE digest[4 * i.toNat] digest[4 * i.toNat + 1] digest[4 * i.toNat + 2] digest[4 * i.toNat + 3])
  else none

/-- The half of BLKCNT that HALF selects: bits 31:0, or bits 54:32 zero-extended (R73, R195). -/
def blkcntHalf (half : BitVec 1) (blkcnt : BitVec 55) : Word :=
  if half = 0#1 then blkcnt.extractLsb' 0 32 else (blkcnt.extractLsb' 32 23).setWidth 32

/-- IV[0..4], the fixed initialization vector (R21). -/
def iv : Vector Word 5 :=
  #v[0x67452301#32, 0xEFCDAB89#32, 0x98BADCFE#32, 0x10325476#32, 0xC3D2E1F0#32]

end Sys2Proof.Machine
end

