-- ==== Sys2Proof/Machine/Ops.lean ====
section
/-! DEFINITION. The named operations every meaning is built from: the cells of BUF, the response, entering and
leaving the error state (60_exceptions.md R214, R217), the ERR gate (R215), the length check (42_absorb.md R151) and
the reset action (70_reset_and_hazards.md R240). -/

namespace Sys2Proof.Machine

/-- The outcome of a command. -/
abbrev Result := Host.Outcome State Fault Refusal

/-- Go on with `k` where `r` is a next state; a fault or a refusal stays. -/
def andThen (r : Result) (k : State → Result) : Result :=
  match r with
  | .next s => k s
  | .fault f => .fault f
  | .refused f => .refused f

/-! ### The cells of BUF -/

/-- The number of bytes of BUF (R6, R23). -/
def bufSize : Nat := 64

/-- BUF[k]: none where the byte holds no value (R25; log 4). -/
def cellRead : List Host.Cell → Nat → Option Byte
  | [], _ => none
  | (a, b) :: rest, k => if a = k then some b else cellRead rest k

/-- BUF[k] <- v, keeping the indexes strictly rising. -/
def cellWrite : List Host.Cell → Nat → Byte → List Host.Cell
  | [], k, v => [(k, v)]
  | (a, b) :: rest, k, v =>
    if k < a then (k, v) :: (a, b) :: rest
    else if k = a then (k, v) :: rest
    else (a, b) :: cellWrite rest k v

/-- BUF[k .. k+n-1] in order: none as soon as one of the bytes holds no value. -/
def cellReads (m : List Host.Cell) : Nat → Nat → Option (List Byte)
  | _, 0 => some []
  | k, n + 1 =>
    match cellRead m k, cellReads m (k + 1) n with
    | some b, some bs => some (b :: bs)
    | _, _ => none

/-- Every index of the list is at least `lo` and below the size of BUF, and they rise strictly. -/
def cellsFrom (lo : Nat) : List Host.Cell → Bool
  | [] => true
  | (a, _) :: rest => decide (lo ≤ a) && decide (a < bufSize) && cellsFrom (a + 1) rest

/-- The canonical form of BUF's cells: strictly rising indexes, all below 64. An unlisted byte reads as no value, so
no listed byte equals it. -/
def Memory.wf (m : List Host.Cell) : Bool := cellsFrom 0 m

/-! ### The response -/

/-- rsp <- w (R74). -/
def respond (w : Word) (s : State) : State := { s with rsp := some w }

/-- A command that completes and is no read answers 0x00000000 (R74). -/
def complete (s : State) : Result := .next (respond 0 s)

/-- A read that succeeds answers the value its rule gives and changes nothing else (R56, R74). -/
def answer (w : Word) (s : State) : Result := .next (respond w s)

/-! ### Errors -/

/-- The state after error entry: ERR <- 1, CAUSE <- code(cause), rsp <- 0, and nothing more (R214). -/
def errored (cause : Cause) (s : State) : State := respond 0 { s with err := true, cause := cause }

/-- Error entry, `raise Error(cause)`: a next state, since the engine goes on accepting commands (R214; log 2). -/
def raiseError (cause : Cause) (s : State) : Result := .next (errored cause s)

/-- The command that led from `s` to `t` set ERR from 0 to 1 (R13, R214). -/
def faults (s t : State) : Bool := !s.err && t.err

/-- The outcome of a command in `s` as the spec names it, one of exactly three (00_scope.md R13, 60_exceptions.md R214):
a fault where the command set ERR from 0 to 1, which `r` itself has as a next state; a refusal; else a next state
(log 2). -/
def contractOutcome (s : State) (r : Result) : Result :=
  match r with
  | .next t => if faults s t then .fault (.callerContract t.cause) else .next t
  | .fault f => .fault f
  | .refused f => .refused f

/-- Error return: ERR <- 0, CAUSE <- 0 (R217). -/
def clearError (s : State) : State := { s with err := false, cause := .none }

/-- A command ignored by the ERR gate changes nothing and answers 0x00000000 (R215, R74). -/
def ignored (s : State) : Result := .next (respond 0 s)

/-- The ERR gate: while ERR = 1 the command is ignored (R215, R216 step 1). -/
def gated (k : State → Result) (s : State) : Result := if s.err then ignored s else k s

/-- Every word that does not decode, and every instruction whose operand is out of its legal range: the ERR gate
first, then ILLEGAL_CMD (R77, R211, R216). -/
def illegalCommand (s : State) : Result := gated (raiseError .illegalCmd) s

/-- Step 2 of R216 for an operand field of three bits: 5..7 raise ILLEGAL_CMD, before any check of the phase. -/
def checkOperand (v : BitVec 3) (k : State → Result) (s : State) : Result :=
  if operandLegal v then k s else raiseError .illegalCmd s

/-- The phase check of RDH, RDBLK and RDBUF: NOT_INIT in IDLE (R190, R212). -/
def needsMessage (k : State → Result) (s : State) : Result :=
  match s.phase with
  | .idle => raiseError .notInit s
  | .active => k s
  | .consumed => k s

/-! ### The length of the message -/

/-- The bytes of the message so far: BLKCNT * 64 + BUFCNT (R151). -/
def State.messageBytes (s : State) : Nat := s.blkcnt.toNat * 64 + s.bufcnt.toNat

/-- The first length in bytes that is too long: 2^61 (R151). -/
def lengthLimit : Nat := 2 ^ 61

/-- LENGTH(): L = BLKCNT * 512 + BUFCNT * 8 as a 64-bit value (R171). -/
def State.lengthBits (s : State) : BitVec 64 := s.blkcnt.setWidth 64 * 512 + s.bufcnt.setWidth 64 * 8

/-! ### Unspecified state -/

/-- W, A..E and RC hold values that nothing fixes: after a compression and after reset (R26, R27, R28, U10; log 5). -/
def freeDatapath (n : Nat) : Datapath :=
  { w := Config.freeW n
    a := (Config.freeVars n)[0]
    b := (Config.freeVars n)[1]
    c := (Config.freeVars n)[2]
    d := (Config.freeVars n)[3]
    e := (Config.freeVars n)[4]
    rc := Config.freeRc n }

/-- The reset action of the pin `rst`: PHASE <- IDLE, DVALID, ERR, CAUSE <- 0; every other element is left
unspecified (R240, R38, U8; log 6). What still waits at the port stays; no response is present (R241; log 7, 8). -/
def applyReset (s : State) : State :=
  { h := Config.freeH s.freeCount
    blkcnt := Config.freeBlkcnt s.freeCount
    buf := []
    bufcnt := BitVec.ofNat 7 (Config.freeBufcnt s.freeCount).val
    dp := freeDatapath s.freeCount
    digest := Config.freeDigest s.freeCount
    phase := .idle
    dvalid := false
    err := false
    cause := .none
    port := s.port
    rsp := none
    freeCount := s.freeCount + 1 }

end Sys2Proof.Machine
end

