-- ==== Sys2Proof/Machine/Compressor.lean ====
section
/-! DEFINITION. The block compressor (41_compressor.md): LOAD, the message-schedule expander, the round functions and
constants, ROUND, FEEDFWD and COMPRESS. Every operation is total and raises nothing (60_exceptions.md R218). -/

namespace Sys2Proof.Machine

/-- A 64-byte block (R6). -/
abbrev Block := Vector Byte 64

/-- W[j] of LOAD: the big-endian word at byte offset 4j of the block (R110, R50 (a)). -/
def loadWord (blk : Block) (j : Fin 16) : Word :=
  wordBE blk[4 * j.val] blk[4 * j.val + 1] blk[4 * j.val + 2] blk[4 * j.val + 3]

/-- LOAD(blk): the window as loaded (R110). -/
def load (blk : Block) : Vector Word 16 :=
  #v[loadWord blk 0, loadWord blk 1, loadWord blk 2, loadWord blk 3, loadWord blk 4, loadWord blk 5, loadWord blk 6,
    loadWord blk 7, loadWord blk 8, loadWord blk 9, loadWord blk 10, loadWord blk 11, loadWord blk 12, loadWord blk 13,
    loadWord blk 14, loadWord blk 15]

/-- slot(t) = t mod 16 (R111). -/
def slot (t : Nat) : Fin 16 := ⟨t % 16, Nat.mod_lt t (by decide)⟩

/-- EXPAND(t) for 16 <= t <= 79: the old W[t mod 16] is read before it is written (R112, R250). The slots of t-3, t-8
and t-14 are those of t+13, t+8 and t+2 (R112). -/
def expand (t : Nat) (w : Vector Word 16) : Vector Word 16 :=
  w.set (slot t) (rotl 1 (w[slot (t + 13)] ^^^ w[slot (t + 8)] ^^^ w[slot (t + 2)] ^^^ w[slot t]))

/-- F_CH (R114). -/
def fCh (x y z : Word) : Word := z ^^^ (x &&& (y ^^^ z))

/-- F_PAR (R115). -/
def fPar (x y z : Word) : Word := x ^^^ y ^^^ z

/-- F_MAJ (R116). -/
def fMaj (x y z : Word) : Word := (x &&& y) ||| (z &&& (x ||| y))

/-- f_t, the round function of round t (R117). -/
def roundF (t : Nat) : Word → Word → Word → Word :=
  if t < 20 then fCh else if t < 40 then fPar else if t < 60 then fMaj else fPar

/-- K_t, the round constant of round t (R118). -/
def roundK (t : Nat) : Word :=
  if t < 20 then 0x5A827999#32 else if t < 40 then 0x6ED9EBA1#32 else if t < 60 then 0x8F1BBCDC#32 else 0xCA62C1D6#32

/-- T of ROUND(t): ROTL_5(A) + f_t(B, C, D) + E + K_t + W_t, modulo 2^32 (R120). -/
def roundSum (t : Nat) (p : Datapath) : Word :=
  rotl 5 p.a + roundF t p.b p.c p.d + p.e + roundK t + p.w[slot t]

/-- ROUND(t): every right-hand side reads the values before the round (R120, R252). -/
def roundStep (t : Nat) (p : Datapath) : Datapath :=
  { p with a := roundSum t p, b := p.a, c := rotl 30 p.b, d := p.c, e := p.d }

/-- One turn of COMPRESS's loop at t: EXPAND(t) directly before ROUND(t) where t >= 16 (R126, R122). -/
def turn (t : Nat) (p : Datapath) : Datapath :=
  roundStep t (if 16 ≤ t then { p with w := expand t p.w } else p)

/-- RC moves on to the next round; after round 79 it is 80, the feed-forward (R28). -/
def nextRc (rc : Fin 81) : Fin 81 := if h : rc.val < 80 then ⟨rc.val + 1, by omega⟩ else rc

/-- One turn at t = RC; nothing happens once RC = 80 (R28, R126). -/
def advance (p : Datapath) : Datapath :=
  if p.rc.val < 80 then { turn p.rc.val p with rc := nextRc p.rc } else p

/-- `n` turns. -/
def advances : Nat → Datapath → Datapath
  | 0, p => p
  | n + 1, p => advances n (advance p)

/-- The datapath when round 0 is next: the window loaded, (A, B, C, D, E) = (H[0], .., H[4]), RC = 0 (R126). -/
def startDatapath (blk : Block) (h : Vector Word 5) : Datapath :=
  { w := load blk, a := h[0], b := h[1], c := h[2], d := h[3], e := h[4], rc := 0 }

/-- FEEDFWD: each word of H adds its working variable, modulo 2^32 (R125). -/
def feedForward (h : Vector Word 5) (p : Datapath) : Vector Word 5 :=
  #v[h[0] + p.a, h[1] + p.b, h[2] + p.c, h[3] + p.d, h[4] + p.e]

/-- The new H of COMPRESS(blk) from H: LOAD, 80 turns, FEEDFWD (R126). -/
def compressH (blk : Block) (h : Vector Word 5) : Vector Word 5 :=
  feedForward h (advances 80 (startDatapath blk h))

/-- COMPRESS(blk): H is the only state it changes that outlives it; W, A..E and RC hold free values afterwards
(R126, R127; log 5). -/
def compress (blk : Block) (s : State) : State :=
  { s with h := compressH blk s.h, dp := freeDatapath s.freeCount, freeCount := s.freeCount + 1 }

/-- COMPRESS of a list of bytes. LOAD reads exactly 64 of them; a list of another length, which no caller supplies,
is refused (R110, U6). -/
def compressBytes (bytes : List Byte) (s : State) : Result :=
  if h : bytes.toArray.size = 64 then .next (compress ⟨bytes.toArray, h⟩ s) else .refused .partialBlock

end Sys2Proof.Machine
end

