-- ==== Sys2Proof/Machine/Absorb.lean ====
section
/-! DEFINITION. ABSORB, the stream accumulator with eager flush (42_absorb.md R150, R151, R152). -/

namespace Sys2Proof.Machine

/-- BUF[BUFCNT] <- b, BUFCNT <- BUFCNT + 1 (R152). -/
def landByte (b : Byte) (s : State) : State :=
  { s with buf := cellWrite s.buf s.bufcnt.toNat b, bufcnt := s.bufcnt + 1 }

/-- BLKCNT <- BLKCNT + 1, BUFCNT <- 0; the bytes of BUF are stale and unspecified (R152, R25; log 4). -/
def startBlock (s : State) : State := { s with blkcnt := s.blkcnt + 1, bufcnt := 0, buf := [] }

/-- BUF is full: COMPRESS(BUF[0..63]), and the next block starts (R152). -/
def flush (s : State) : Result :=
  match cellReads s.buf 0 bufSize with
  | none => .refused .bufUnwritten
  | some bytes => andThen (compressBytes bytes s) fun s => .next (startBlock s)

/-- ABSORB_BYTE(b): the byte lands, and when that makes 64 the block is compressed at once (R152). -/
def absorbByte (b : Byte) (s : State) : Result :=
  if bufSize ≤ s.bufcnt.toNat then .refused .bufcntOutOfRange
  else if (landByte b s).bufcnt.toNat = bufSize then flush (landByte b s)
  else .next (landByte b s)

/-- ABSORB_BYTE of each byte in stream order (R150, R51). -/
def absorbBytes : List Byte → State → Result
  | [], s => .next s
  | b :: bs, s => andThen (absorbByte b s) (absorbBytes bs)

/-- The length check, made once and before any byte (R151). -/
def checkLength (n : Nat) (k : State → Result) (s : State) : Result :=
  if lengthLimit ≤ s.messageBytes + n then raiseError .lengthOverflow s else k s

/-- The phase check of ABSORB (R150, R212, R213). -/
def absorbPhase (k : State → Result) (s : State) : Result :=
  match s.phase with
  | .idle => raiseError .notInit s
  | .consumed => raiseError .absorbAfterFinal s
  | .active => k s

/-- ABSORB N, data (R150), its checks in the order of R216. -/
def execAbsorb (n : BitVec 3) (data : Word) (s : State) : Result :=
  gated (checkOperand n (absorbPhase (checkLength n.toNat fun s =>
    andThen (absorbBytes (dataBytes n data) s) complete))) s

end Sys2Proof.Machine
end

