-- ==== Sys2Proof/Machine/Control.lean ====
section
/-! DEFINITION. NOP and INIT (40_init.md R100, R101), the two commands besides RDSTAT that the ERR gate lets through. -/

namespace Sys2Proof.Machine

/-- NOP: responds 0 in every phase, with ERR = 0 or 1, and changes no state (R100). -/
def execNop (s : State) : Result := complete s

/-- What INIT writes: H, BLKCNT, BUFCNT, PHASE, DVALID, and with `clearError` ERR and CAUSE (R101). BUF's bytes are
unspecified from here on (R25; log 4); DIGEST's stay (R29). -/
def startMessage (s : State) : State :=
  clearError { s with h := iv, blkcnt := 0, bufcnt := 0, buf := [], phase := .active, dvalid := false }

/-- INIT: legal in every phase and with ERR = 1 (R101). -/
def execInit (s : State) : Result := complete (startMessage s)

end Sys2Proof.Machine
end

