-- ==== Sys2Proof/Machine/Finalize.lean ====
section
/-! DEFINITION. FINALIZE: padding, the length field, the last one or two compressions and the big-endian serializer
(43_finalize.md R170..R177). -/

namespace Sys2Proof.Machine

/-- PAD_AND_COMPRESS(L) for the buffered bytes m, whose number is BUFCNT: one block up to 55 bytes, two from 56 on
(R172, R173, R175). -/
def padAndCompress (len : BitVec 64) (m : List Byte) (s : State) : Result :=
  if m.length ≤ 55 then
    compressBytes (m ++ [0x80#8] ++ zeros (55 - m.length) ++ be64 len) s
  else
    andThen (compressBytes (m ++ [0x80#8] ++ zeros (63 - m.length)) s) (compressBytes (zeros 56 ++ be64 len))

/-- BE32 of each word of H in word order 0..4 (R174). -/
def digestOf (h : Vector Word 5) : Vector Byte 20 :=
  #v[wordByte h[0] 0, wordByte h[0] 1, wordByte h[0] 2, wordByte h[0] 3,
    wordByte h[1] 0, wordByte h[1] 1, wordByte h[1] 2, wordByte h[1] 3,
    wordByte h[2] 0, wordByte h[2] 1, wordByte h[2] 2, wordByte h[2] 3,
    wordByte h[3] 0, wordByte h[3] 1, wordByte h[3] 2, wordByte h[3] 3,
    wordByte h[4] 0, wordByte h[4] 1, wordByte h[4] 2, wordByte h[4] 3]

/-- SERIALIZE(): DIGEST <- BE32 of each word of H; H itself is unchanged (R174). -/
def serialize (s : State) : State := { s with digest := digestOf s.h }

/-- PHASE <- CONSUMED and DVALID <- 1 (R177). The bytes of BUF are unspecified afterwards, since the padding may have
been built there (R172, R25; log 4); BLKCNT and BUFCNT stay (R176). -/
def consume (s : State) : State := { s with phase := .consumed, dvalid := true, buf := [] }

/-- The effect of FINALIZE in ACTIVE (R170). Its flush step has nothing to do, BUFCNT being at most 63 (R24). -/
def finishMessage (s : State) : Result :=
  if bufSize ≤ s.bufcnt.toNat then .refused .bufcntOutOfRange
  else
    match cellReads s.buf 0 s.bufcnt.toNat with
    | none => .refused .bufUnwritten
    | some m => andThen (padAndCompress s.lengthBits m s) fun s => complete (consume (serialize s))

/-- The phase check of FINALIZE (R170, R212, R213). -/
def finalizePhase (k : State → Result) (s : State) : Result :=
  match s.phase with
  | .idle => raiseError .notInit s
  | .consumed => raiseError .doubleFinalize s
  | .active => k s

/-- FINALIZE (R170). -/
def execFinalize (s : State) : Result := gated (finalizePhase finishMessage) s

end Sys2Proof.Machine
end

