-- ==== Sys2Proof/Machine/Readback.lean ====
section
/-! DEFINITION. The read commands (44_readback.md R190..R197). A read that succeeds changes nothing but the response
(20_memory.md R56). -/

namespace Sys2Proof.Machine

/-- A read whose index names a word answers it; an index out of range raises ILLEGAL_CMD, as its command word does
(R77, R211). -/
def answerWord (w : Option Word) (s : State) : Result :=
  match w with
  | some w => answer w s
  | none => raiseError .illegalCmd s

/-- RDSTAT: rsp <- STATUS, exempt from the ERR gate (R191, R215). -/
def execRdstat (s : State) : Result := answer s.status s

/-- The validity check of RDDIG: DIGEST_NOT_VALID while DVALID = 0 (R190, R192). -/
def needsDigest (k : State → Result) (s : State) : Result :=
  if s.dvalid then k s else raiseError .digestNotValid s

/-- RDDIG I: rsp <- DIG[I] (R192). -/
def execRddig (i : BitVec 3) (s : State) : Result :=
  gated (checkOperand i (needsDigest fun s => answerWord (digestWord s.digest i) s)) s

/-- RDH I: rsp <- H[I] (R193). -/
def execRdh (i : BitVec 3) (s : State) : Result :=
  gated (checkOperand i (needsMessage fun s => answerWord (accWord s.h i) s)) s

/-- RDBLK HALF: rsp <- BLKCNT[31:0], or zext_32(BLKCNT[54:32]) (R195). -/
def execRdblk (half : BitVec 1) (s : State) : Result :=
  gated (needsMessage fun s => answer (blkcntHalf half s.blkcnt) s) s

/-- RDBUF: rsp <- zext_32(BUFCNT) (R197). -/
def execRdbuf (s : State) : Result :=
  gated (needsMessage fun s => answer (s.bufcnt.setWidth 32) s) s

end Sys2Proof.Machine
end

