-- ==== Sys2Proof/Machine/Dispatch.lean ====
section
/-! DEFINITION. One arm per command, each one call of its meaning. -/

namespace Sys2Proof.Machine

/-- The meaning of every command of 30_encoding.md R75. -/
def exec (i : Instr) (s : State) : Host.Outcome State Fault Refusal :=
  match i with
  | .nop => Sys2Proof.Machine.execNop s
  | .init => Sys2Proof.Machine.execInit s
  | .absorb n data => Sys2Proof.Machine.execAbsorb n data s
  | .finalize => Sys2Proof.Machine.execFinalize s
  | .rdstat => Sys2Proof.Machine.execRdstat s
  | .rddig k => Sys2Proof.Machine.execRddig k s
  | .rdh k => Sys2Proof.Machine.execRdh k s
  | .rdblk half => Sys2Proof.Machine.execRdblk half s
  | .rdbuf => Sys2Proof.Machine.execRdbuf s

end Sys2Proof.Machine
end

