-- ==== Sys2Proof/Machine/Command.lean ====
section
/-! DEFINITION. Accepting what the host put at the port: a command is decoded and run, or raises ILLEGAL_CMD
(30_encoding.md R76, R77); `rst` resets the engine (70_reset_and_hazards.md R240, R241). -/

namespace Sys2Proof.Machine

/-- One command (cmd, data): the checks in the order of 60_exceptions.md R216. The gate comes first on both paths:
`illegalCommand` applies it to a word that does not decode, and each meaning but NOP, INIT and RDSTAT to its own. -/
def runCommand (cmd data : Word) (s : State) : Result :=
  match decode cmd data with
  | .ok i => exec i s
  | .error _ => illegalCommand s

/-- What one request does. A command in flight when `rst` is asserted is not performed and gets no response (R241,
U15; log 7). -/
def accept (r : Request) (s : State) : Result :=
  match r with
  | .command cmd data => runCommand cmd data s
  | .reset => .next (applyReset s)
  | .commandReset _ _ => .next (applyReset s)

/-- One transaction: the oldest request at the port is taken and accepted. With none waiting the engine is idle and
all its state persists (60_exceptions.md R226). -/
def transact (s : State) : Result :=
  match s.port with
  | [] => .next s
  | r :: rest => accept r { s with port := rest }

/-- `s` with the command (cmd, data) next at the port. -/
def offerCommand (cmd data : Word) (s : State) : State := { s with port := .command cmd data :: s.port }

end Sys2Proof.Machine
end

