-- ==== Sys2Proof/Machine/Step.lean ====
section
/-! DEFINITION. One step of the machine is one transaction at the port (30_encoding.md R70, R71; 20_memory.md R55). The
engine has no program counter and fetches no instruction (10_state.md R37, 20_memory.md R63): the command the host
offers next is what a step runs (log 1). -/

namespace Sys2Proof.Machine

/-- One step. -/
def step (s : State) : Host.Outcome State Fault Refusal := transact s

/-- One step with the outcome R13 names: it ends in a fault where the command sets ERR from 0 to 1 (D9: claims take 'no
fault' as a premise). `step` goes on from there with the state R214 gives (log 2). -/
def contractStep (s : State) : Host.Outcome State Fault Refusal := contractOutcome s (step s)

/-- `s` with the instruction whose bits are `w` offered next at the port, so that the next step runs it: bits 31..0 are
the command word, bits 63..32 the data word, zero for a table row of 32 bits (log 1, 13). -/
def State.withFetchWord (s : State) (nbits w : Nat) : State :=
  offerCommand (tableCommand nbits w) (tableData nbits w) s

end Sys2Proof.Machine
end

