-- ==== Sys2Proof/Safety.lean ====
section
/-! DEFINITION. What counts as a well-behaved state and a safe run, in the terms the statements use: the invariants of
10_state.md R39, and runs of several commands. -/

namespace Sys2Proof.Machine

/-- The invariants of every command boundary. The first six are R39 (1) to (6); the last three are what the model
needs beside them: R31 with R177, and the form of BUF (R25; log 4). -/
structure State.Inv (s : State) : Prop where
  /-- R39 (1): 0 <= BUFCNT <= 63. -/
  bufcnt_le : s.bufcnt.toNat ≤ 63
  /-- R39 (2): BLKCNT * 64 + BUFCNT <= 2^61 - 1. -/
  length_le : s.messageBytes ≤ 2 ^ 61 - 1
  /-- R39 (3): ERR = 0 if and only if CAUSE = 0. -/
  err_iff_cause : s.err = false ↔ s.cause.code = 0
  /-- R39 (4): PHASE != 3. -/
  phase_ne_three : s.phase.code ≠ 3
  /-- R39 (5): if PHASE = IDLE then DVALID = 0. -/
  idle_not_valid : s.phase = .idle → s.dvalid = false
  /-- R39 (6): if DVALID = 1 then BE32(H[i]) = DIGEST[4i..4i+3] for all i. -/
  digest_of_h : s.dvalid = true → ∀ (i : Fin 5) (k : Fin 4),
    s.digest[4 * i.val + k.val] = (s.h[i]).extractLsb' (24 - 8 * k.val) 8
  /-- DVALID = 1 exactly in CONSUMED (R31, R177). -/
  valid_iff_consumed : s.dvalid = true ↔ s.phase = .consumed
  /-- BUF's cells are in canonical form (log 4). -/
  buf_wf : Memory.wf s.buf = true
  /-- While a message is absorbed, BUF[k] holds a value exactly for k < BUFCNT (R25). -/
  buf_valid : s.phase = .active → ∀ k, (cellRead s.buf k).isSome = decide (k < s.bufcnt.toNat)

/-- The commands `is` one after another; a stop ends the run. -/
def execAll : List Instr → State → Result
  | [], s => .next s
  | i :: is, s => andThen (exec i s) (execAll is)

/-- The response words of the commands `is`, in order, up to a stop. -/
def answers : List Instr → State → List Word
  | [], _ => []
  | i :: is, s =>
    match exec i s with
    | .next t => t.rsp.toList ++ answers is t
    | .fault _ => []
    | .refused _ => []

/-- The two states hold the same specified state: every element that R242 calls defined. Left out are W, A..E and RC
always (U10), H, BLKCNT and BUFCNT in IDLE, BUF outside ACTIVE, DIGEST while DVALID = 0 (R25, R38), and the model's
counter of free values. -/
structure SameSpecified (s u : State) : Prop where
  phase_eq : s.phase = u.phase
  dvalid_eq : s.dvalid = u.dvalid
  err_eq : s.err = u.err
  cause_eq : s.cause = u.cause
  port_eq : s.port = u.port
  rsp_eq : s.rsp = u.rsp
  h_eq : s.phase ≠ .idle → s.h = u.h
  blkcnt_eq : s.phase ≠ .idle → s.blkcnt = u.blkcnt
  bufcnt_eq : s.phase ≠ .idle → s.bufcnt = u.bufcnt
  buf_eq : s.phase = .active → s.buf = u.buf
  digest_eq : s.dvalid = true → s.digest = u.digest

end Sys2Proof.Machine
end

