-- ==== Sys2Proof/Reference.lean ====
section
/-! DEFINITION. The spec's own message-level and schedule-level definitions, written apart from the machine so that
statements can compare the machine with them: the legal and illegal command words (30_encoding.md R75, R77), the
logical 80-word schedule (41_compressor.md R113), the in-place round (R121), the padded message and its digest
(43_finalize.md R175, R178), the pseudo-operations (30_encoding.md R81, R82) and the table of errors (60_exceptions.md
R210, R216). No meaning of the machine uses this file. -/

namespace Sys2Proof.Reference

open Sys2Proof.Machine

/-! ### Command words -/

/-- The opcode map: every legal command word with the command it stands for, the data word being `data` (R75, R80). -/
def opcodeMap (data : Word) : List (Word × Instr) :=
  [(0x00000000#32, .nop), (0x10000000#32, .init),
    (0x20000000#32, .absorb 0 data), (0x20000001#32, .absorb 1 data), (0x20000002#32, .absorb 2 data),
    (0x20000003#32, .absorb 3 data), (0x20000004#32, .absorb 4 data),
    (0x30000000#32, .finalize), (0x40000000#32, .rdstat),
    (0x50000000#32, .rddig 0), (0x50000001#32, .rddig 1), (0x50000002#32, .rddig 2), (0x50000003#32, .rddig 3),
    (0x50000004#32, .rddig 4),
    (0x60000000#32, .rdh 0), (0x60000001#32, .rdh 1), (0x60000002#32, .rdh 2), (0x60000003#32, .rdh 3),
    (0x60000004#32, .rdh 4),
    (0x70000000#32, .rdblk 0), (0x70000001#32, .rdblk 1), (0x80000000#32, .rdbuf)]

/-- The four ways for a command word to be illegal (R77): a reserved OP, a nonzero reserved bit of its format, N in
5..7, or I in 5..7. -/
def IllegalBits (cmd : Word) : Prop :=
  0x9 ≤ (cmd >>> 28).toNat
  ∨ ((cmd >>> 28).toNat ∈ [0x0, 0x1, 0x3, 0x4, 0x8] ∧ (cmd &&& 0x0FFFFFFF#32) ≠ 0)
  ∨ ((cmd >>> 28).toNat ∈ [0x2, 0x5, 0x6] ∧ ((cmd &&& 0x0FFFFFF8#32) ≠ 0 ∨ 4 < (cmd &&& 0x7#32).toNat))
  ∨ ((cmd >>> 28).toNat = 0x7 ∧ (cmd &&& 0x0FFFFFFE#32) ≠ 0)

/-! ### Errors and responses -/

/-- The error that a command raises with ERR = 0, in the order of R216: decode, phase and validity, length (R210). -/
def errorOf (i : Instr) (s : State) : Option Cause :=
  match i with
  | .nop => none
  | .init => none
  | .absorb n _ =>
    if 4 < n.toNat then some .illegalCmd
    else if s.phase = .idle then some .notInit
    else if s.phase = .consumed then some .absorbAfterFinal
    else if 2 ^ 61 ≤ s.blkcnt.toNat * 64 + s.bufcnt.toNat + n.toNat then some .lengthOverflow
    else none
  | .finalize =>
    if s.phase = .idle then some .notInit else if s.phase = .consumed then some .doubleFinalize else none
  | .rdstat => none
  | .rddig i => if 4 < i.toNat then some .illegalCmd else if s.dvalid = false then some .digestNotValid else none
  | .rdh i => if 4 < i.toNat then some .illegalCmd else if s.phase = .idle then some .notInit else none
  | .rdblk _ => if s.phase = .idle then some .notInit else none
  | .rdbuf => if s.phase = .idle then some .notInit else none

/-- The value a successful read answers (R191, R192, R193, R195, R197); every other command answers 0 (R74). -/
def valueOf (i : Instr) (s : State) : Word :=
  match i with
  | .nop => 0
  | .init => 0
  | .absorb _ _ => 0
  | .finalize => 0
  | .rdstat => s.status
  | .rddig i => (s.digest[4 * i.toNat]?.getD 0) ++ (s.digest[4 * i.toNat + 1]?.getD 0)
      ++ (s.digest[4 * i.toNat + 2]?.getD 0) ++ (s.digest[4 * i.toNat + 3]?.getD 0)
  | .rdh i => s.h[i.toNat]?.getD 0
  | .rdblk half => if half = 0#1 then BitVec.ofNat 32 s.blkcnt.toNat else BitVec.ofNat 32 (s.blkcnt.toNat / 2 ^ 32)
  | .rdbuf => BitVec.ofNat 32 s.bufcnt.toNat

/-- The commands that the ERR gate lets through (R215). -/
def exempt : Instr → Bool
  | .nop => true
  | .init => true
  | .absorb _ _ => false
  | .finalize => false
  | .rdstat => true
  | .rddig _ => false
  | .rdh _ => false
  | .rdblk _ => false
  | .rdbuf => false

/-- The requests that clear ERR and CAUSE: the word of INIT, and reset (R217). -/
def clearsError : Request → Bool
  | .command cmd _ => cmd = 0x10000000#32
  | .reset => true
  | .commandReset _ _ => true

/-- The read commands (R56). -/
def isRead : Instr → Bool
  | .nop => false
  | .init => false
  | .absorb _ _ => false
  | .finalize => false
  | .rdstat => true
  | .rddig _ => true
  | .rdh _ => true
  | .rdblk _ => true
  | .rdbuf => true

/-! ### The logical schedule and the rounds -/

/-- M_j, the block's bytes 4j..4j+3 put side by side, the first byte on top (R110, R113). -/
def blockWord (blk : Block) (j : Nat) : Word :=
  (blk[4 * j]?.getD 0) ++ (blk[4 * j + 1]?.getD 0) ++ (blk[4 * j + 2]?.getD 0) ++ (blk[4 * j + 3]?.getD 0)

/-- W_{t-1}, .., W_0 of the logical schedule of a block, newest first (R113). In the list of W_{t-1}, .., W_0 the
words W_{t-3}, W_{t-8}, W_{t-14} and W_{t-16} stand at the places 2, 7, 13 and 15. -/
def scheduleBelow (blk : Block) : Nat → List Word
  | 0 => []
  | t + 1 =>
    let ws := scheduleBelow blk t
    (if t < 16 then blockWord blk t
      else (ws.getD 2 0 ^^^ ws.getD 7 0 ^^^ ws.getD 13 0 ^^^ ws.getD 15 0).rotateLeft 1) :: ws

/-- W_t of the logical message schedule (R113). -/
def scheduleWord (blk : Block) (t : Nat) : Word := (scheduleBelow blk (t + 1)).headD 0

/-- The five working variables. -/
structure Vars where
  a : Word
  b : Word
  c : Word
  d : Word
  e : Word
  deriving DecidableEq, Repr

/-- f_t by stage (R117, R119); stage 1 in the select form and stage 3 in the majority form of R124. -/
def stageF (t : Nat) (x y z : Word) : Word :=
  match t / 20 with
  | 0 => (x &&& y) ||| (~~~x &&& z)
  | 1 => x ^^^ y ^^^ z
  | 2 => (x &&& y) ||| (x &&& z) ||| (y &&& z)
  | _ => x ^^^ y ^^^ z

/-- K_t by stage (R118, R119). -/
def stageK (t : Nat) : Word :=
  match t / 20 with
  | 0 => 0x5A827999#32
  | 1 => 0x6ED9EBA1#32
  | 2 => 0x8F1BBCDC#32
  | _ => 0xCA62C1D6#32

/-- The working variables after rounds 0..t-1, round t reading the word `w t` (R120). -/
def varsAfter (w : Nat → Word) (h : Vector Word 5) : Nat → Vars
  | 0 => { a := h[0], b := h[1], c := h[2], d := h[3], e := h[4] }
  | t + 1 =>
    let v := varsAfter w h t
    { a := v.a.rotateLeft 5 + stageF t v.b v.c v.d + v.e + stageK t + w t
      b := v.a
      c := v.b.rotateLeft 30
      d := v.c
      e := v.d }

/-- COMPRESS over the logical 80-word schedule: 80 rounds and the feed-forward (R113, R120, R125). -/
def compressLogical (blk : Block) (h : Vector Word 5) : Vector Word 5 :=
  let v := varsAfter (scheduleWord blk) h 80
  #v[h[0] + v.a, h[1] + v.b, h[2] + v.c, h[3] + v.d, h[4] + v.e]

/-- The register that plays role k (0 for a, .., 4 for e) in round t of the in-place form: v[(k - t) mod 5] (R121). -/
def roleReg (k t : Nat) : Fin 5 := ⟨(k + 4 * t) % 5, Nat.mod_lt _ (by decide)⟩

/-- Round t of the source's in-place form on the five physical registers, W_t being `w` (R121). -/
def inPlaceRound (t : Nat) (w : Word) (v : Vector Word 5) : Vector Word 5 :=
  let e := v[roleReg 4 t] + v[roleReg 0 t].rotateLeft 5
    + stageF t v[roleReg 1 t] v[roleReg 2 t] v[roleReg 3 t] + stageK t + w
  (v.set (roleReg 4 t) e).set (roleReg 1 t) (v[roleReg 1 t].rotateLeft 30)

/-- The five physical registers after rounds 0..t-1 of the in-place form (R121). -/
def inPlaceAfter (w : Nat → Word) (h : Vector Word 5) : Nat → Vector Word 5
  | 0 => h
  | t + 1 => inPlaceRound t (w t) (inPlaceAfter w h t)

/-- In the roles of round t the physical registers hold the datapath's A, B, C, D, E (R121). -/
def InRoles (t : Nat) (v : Vector Word 5) (p : Datapath) : Prop :=
  v[roleReg 0 t] = p.a ∧ v[roleReg 1 t] = p.b ∧ v[roleReg 2 t] = p.c ∧ v[roleReg 3 t] = p.d ∧ v[roleReg 4 t] = p.e

/-! ### Messages -/

/-- The k-th 64-byte block of a byte sequence that is long enough to have one. -/
def blockAt (s : List Byte) (k : Nat) : Block := Vector.ofFn fun j : Fin 64 => s.getD (64 * k + j.val) 0

/-- COMPRESS applied from IV to the first n blocks of a byte sequence, in order (R154, R178). -/
def chain (s : List Byte) : Nat → Vector Word 5
  | 0 => iv
  | n + 1 => compressH (blockAt s n) (chain s n)

/-- The padded message: s, 0x80, zeros and the bit length, with z = (55 - |s|) mod 64 zeros (R175). -/
def padded (s : List Byte) : List Byte :=
  s ++ [0x80#8] ++ List.replicate ((55 + 63 * s.length) % 64) 0#8 ++ be64 (BitVec.ofNat 64 (8 * s.length))

/-- The digest of a byte sequence: COMPRESS from IV over the blocks of the padded message, each word in big-endian
order (R178, R174). -/
def digest (s : List Byte) : List Byte :=
  (chain (padded s) ((padded s).length / 64)).toList.flatMap be32

/-- The pseudo-operation ABSORBS s: four bytes a command, then the one to three that are left (R81). -/
def absorbs : List Byte → List Instr
  | b0 :: b1 :: b2 :: b3 :: rest => .absorb 4 (b0 ++ b1 ++ b2 ++ b3) :: absorbs rest
  | [b0, b1, b2] => [.absorb 3 (b0 ++ b1 ++ b2 ++ 0#8)]
  | [b0, b1] => [.absorb 2 (b0 ++ b1 ++ 0#16)]
  | [b0] => [.absorb 1 (b0 ++ 0#24)]
  | [] => []

/-- The pseudo-operation DIGEST s up to and with FINALIZE (R82). -/
def digestCommands (s : List Byte) : List Instr := .init :: (absorbs s ++ [.finalize])

/-- The five reads that end the pseudo-operation DIGEST (R82). -/
def digestReads : List Instr := [.rddig 0, .rddig 1, .rddig 2, .rddig 3, .rddig 4]

/-- ABSORB commands from (N, data) pairs. -/
def absorbAll (cs : List (BitVec 3 × Word)) : List Instr := cs.map fun c => .absorb c.1 c.2

/-- The bytes that ABSORB commands carry, in stream order: of each data word its first N bytes, byte k being
data[31-8k : 24-8k] (R51, R73). -/
def bytesOf (cs : List (BitVec 3 × Word)) : List Byte :=
  cs.flatMap fun c => (List.range c.1.toNat).map fun k => c.2.extractLsb' (24 - 8 * k) 8

end Sys2Proof.Reference
end

