-- ==== Sys2Proof/Certificates/Slice0/Obligations.lean ====
section
/-! DEFINITION. The statements about the machine, each from a numbered rule of the spec or from a section of it. An
error of the spec is a next state with ERR = 1 (log 2). Statements about exec on success are equations with a next
state, so they say where the command completes, what it writes and what it leaves alone. -/

open Sys2Proof Sys2Proof.Machine Sys2Proof.Reference

/-! ### Encoding -/

/-- Command words written out from 30_encoding.md R75 and 95_test_vectors.md V-ERR-2 decode to what they stand for. -/
def Obligations.SampleWordsDecode : Prop :=
  decode 0x00000000#32 0xFFFFFFFF#32 = .ok .nop
    ∧ decode 0x10000000#32 0 = .ok .init
    ∧ decode 0x20000003#32 0x61626300#32 = .ok (.absorb 3 0x61626300#32)
    ∧ decode 0x30000000#32 0 = .ok .finalize
    ∧ decode 0x50000004#32 0 = .ok (.rddig 4)
    ∧ decode 0x60000002#32 0 = .ok (.rdh 2)
    ∧ decode 0x70000001#32 0 = .ok (.rdblk 1)
    ∧ decode 0x20000007#32 0 = .error .operandRange
    ∧ decode 0x20000008#32 0 = .error .reservedBits
    ∧ decode 0x40000001#32 0 = .error .reservedBits
    ∧ decode 0x90000000#32 0 = .error .reservedOp

/-- R76: a word decodes exactly when it is one of the words of the opcode map, and then to the command of its row,
whatever the data word. -/
def Obligations.LegalWordsDecode : Prop :=
  ∀ (cmd data : Word) (i : Instr), decode cmd data = .ok i ↔ (cmd, i) ∈ opcodeMap data

/-- The list of illegal words in R77, bit by bit: a word is rejected exactly when its OP is reserved, a reserved bit is
set, or N or I is in 5..7. -/
def Obligations.IllegalBitsAreRejected : Prop :=
  ∀ cmd data : Word, (∃ e, decode cmd data = .error e) ↔ IllegalBits cmd

/-- Decoding the words of a well-formed instruction gives it back, with every operand at every value. -/
def Obligations.EncodedCommandDecodesBack : Prop :=
  ∀ i : Instr, i.wf = true → decode (encode i).1 (encode i).2 = .ok i

/-- Each legal command word has one meaning: encoding what it decodes to gives the word back, and for ABSORB the data
word; and what decodes is well-formed. -/
def Obligations.DecodedWordEncodesBack : Prop :=
  ∀ (cmd data : Word) (i : Instr), decode cmd data = .ok i →
    i.wf = true ∧ (encode i).1 = cmd ∧ ∀ n d, i = .absorb n d → (encode i).2 = data

/-! ### One step -/

/-- When the command at the port decodes, the step takes it from the port and runs exec of it. -/
def Obligations.StepRunsDecodedCommand : Prop :=
  ∀ (s : State) (cmd data : Word) (rest : List Request) (i : Instr),
    s.port = .command cmd data :: rest → decode cmd data = .ok i → step s = exec i { s with port := rest }

/-- With no command at the port the engine is idle and all state persists ("all state persists until the next command
or reset", 60_exceptions.md section 4). That `rsp`, which is no state element of 10_state.md, stays as well is the
model's choice: the spec does not say how long a response stays at the port (log 8); that a step may find no command is
log 1. -/
def Obligations.IdleStepKeepsState : Prop :=
  ∀ s : State, s.port = [] → step s = .next s

/-- An illegal word raises ILLEGAL_CMD when ERR = 0 and is ignored when ERR = 1, with no other effect (R77, R211). The
error entry is a next state (log 2). -/
def Obligations.IllegalWordRaisesIllegalCmd : Prop :=
  ∀ (s : State) (cmd data : Word) (rest : List Request),
    s.port = .command cmd data :: rest → IllegalBits cmd →
      step s = .next { s with
        port := rest, rsp := some 0, err := true, cause := if s.err then s.cause else .illegalCmd }

/-- R215: while ERR = 1 every word but the three exempt ones is ignored, legal and illegal alike; the exempt three
execute normally. -/
def Obligations.ErrGateIgnoresCommands : Prop :=
  ∀ (s : State) (cmd data : Word) (rest : List Request), s.port = .command cmd data :: rest → s.err = true →
    (cmd ∉ [0x00000000#32, 0x10000000#32, 0x40000000#32] → step s = .next { s with port := rest, rsp := some 0 })
      ∧ (cmd = 0x00000000#32 → step s = .next { s with port := rest, rsp := some 0 })
      ∧ (cmd = 0x40000000#32 → step s = .next { s with port := rest, rsp := some s.status })
      ∧ (cmd = 0x10000000#32 → ∃ t, step s = .next t ∧ t.err = false ∧ t.cause = .none ∧ t.phase = .active
          ∧ t.rsp = some 0)

/-- R79: the data word matters to no command but ABSORB, and to ABSORB only in its first N bytes. -/
def Obligations.IgnoredDataNeverMatters : Prop :=
  ∀ (s : State) (cmd d1 d2 : Word) (rest : List Request),
    (cmd >>> 28 = 2#32 → ∀ k, k < (cmd &&& 7#32).toNat → d1.extractLsb' (24 - 8 * k) 8 = d2.extractLsb' (24 - 8 * k) 8) →
      step { s with port := .command cmd d1 :: rest } = step { s with port := .command cmd d2 :: rest }

/-- R240 and R241: `rst` leaves PHASE = IDLE, DVALID, ERR and CAUSE zero and STATUS zero, as State.reset has them; with
a command in flight it does the same, as if the command had not been issued, and there is no response. -/
def Obligations.ResetClearsStatus : Prop :=
  (State.reset.phase = .idle ∧ State.reset.dvalid = false ∧ State.reset.err = false ∧ State.reset.cause = .none
      ∧ State.reset.status = 0)
    ∧ (∀ (s : State) (rest : List Request), s.port = .reset :: rest →
        ∃ t, step s = .next t ∧ t.phase = .idle ∧ t.dvalid = false ∧ t.err = false ∧ t.cause = .none ∧ t.status = 0
          ∧ t.port = rest)
    ∧ (∀ (s : State) (cmd data : Word) (rest : List Request), s.port = .commandReset cmd data :: rest →
        ∃ t, step s = .next t ∧ step { s with port := .reset :: rest } = .next t ∧ t.rsp = none)

/-! ### NOP and INIT -/

/-- R100: NOP responds 0 and changes no state, in every phase and with ERR = 0 or 1; a nonzero bit in cmd[27:0] makes
the word illegal. -/
def Obligations.NopOnlyResponds : Prop :=
  (∀ s : State, exec .nop s = .next { s with rsp := some 0 })
    ∧ (∀ data : Word, decode 0x00000000#32 data = .ok .nop)
    ∧ ∀ cmd data : Word, cmd >>> 28 = 0 → cmd ≠ 0 → ∃ e, decode cmd data = .error e

/-- R101: INIT from every state loads IV, zeroes the counters, enters ACTIVE, clears DVALID, ERR and CAUSE and leaves
DIGEST's bytes; STATUS is 1 after it, and a second INIT changes nothing; no other command clears ERR. -/
def Obligations.InitStartsMessage : Prop :=
  (∀ data : Word, decode 0x10000000#32 data = .ok .init)
    ∧ (∀ s : State, ∃ t, exec .init s = .next t
      ∧ t.h = #v[0x67452301#32, 0xEFCDAB89#32, 0x98BADCFE#32, 0x10325476#32, 0xC3D2E1F0#32]
      ∧ t.blkcnt = 0 ∧ t.bufcnt = 0 ∧ t.phase = .active ∧ t.dvalid = false ∧ t.err = false ∧ t.cause = .none
      ∧ t.rsp = some 0 ∧ t.status = 1
      ∧ t.digest = s.digest ∧ t.dp = s.dp ∧ t.port = s.port ∧ t.freeCount = s.freeCount
      ∧ exec .init t = .next t)
    ∧ ∀ (i : Instr) (s t : State), i ≠ .init → exec i s = .next t → s.err = true → t.err = true

/-- After INIT and after a FINALIZE that succeeds no byte of BUF holds a value: the model's choice for bytes that
10_state.md section 2 calls unspecified (log 4). -/
def Obligations.UnspecifiedBytesHoldNoValue : Prop :=
  (∀ s t : State, exec .init s = .next t → ∀ k, cellRead t.buf k = none)
    ∧ ∀ s t : State, s.err = false → exec .finalize s = .next t → t.err = false → ∀ k, cellRead t.buf k = none

/-! ### ABSORB -/

/-- ABSORB of N bytes that do not fill the block completes: byte k of the data word lands at BUF[BUFCNT + k], BUFCNT
advances by N, and nothing else changes, no other byte of BUF among it (42_absorb.md sections on R150 and R152). -/
def Obligations.AbsorbWithinBlock : Prop :=
  ∀ (s : State) (n : BitVec 3) (data : Word), s.err = false → s.phase = .active → n.toNat ≤ 4 →
    s.blkcnt.toNat * 64 + s.bufcnt.toNat + n.toNat < 2 ^ 61 → s.bufcnt.toNat + n.toNat < 64 →
      ∃ t, exec (.absorb n data) s = .next t
        ∧ t.bufcnt.toNat = s.bufcnt.toNat + n.toNat
        ∧ (∀ k, cellRead t.buf k =
            if s.bufcnt.toNat ≤ k ∧ k < s.bufcnt.toNat + n.toNat
            then some (data.extractLsb' (24 - 8 * (k - s.bufcnt.toNat)) 8)
            else cellRead s.buf k)
        ∧ t = { s with buf := t.buf, bufcnt := t.bufcnt, rsp := some 0 }

/-- ABSORB of N bytes that fill the block completes: the 64 - BUFCNT first bytes complete the block, which is
compressed, BLKCNT counts it, and the bytes left start the next block at BUF[0]; no other byte of BUF holds a value
(log 4); DIGEST, PHASE, DVALID, ERR, CAUSE and the port are unchanged. -/
def Obligations.AbsorbFillsBlock : Prop :=
  ∀ (s : State) (n : BitVec 3) (data : Word) (m : List Byte), s.err = false → s.phase = .active → n.toNat ≤ 4 →
    s.blkcnt.toNat * 64 + s.bufcnt.toNat + n.toNat < 2 ^ 61 → s.bufcnt.toNat ≤ 63 → 64 ≤ s.bufcnt.toNat + n.toNat →
    cellReads s.buf 0 s.bufcnt.toNat = some m →
      ∃ (t : State) (blk : Block), exec (.absorb n data) s = .next t
        ∧ blk.toList = m ++ (List.range (64 - s.bufcnt.toNat)).map (fun k => data.extractLsb' (24 - 8 * k) 8)
        ∧ t.h = compressH blk s.h
        ∧ t.blkcnt.toNat = s.blkcnt.toNat + 1
        ∧ t.bufcnt.toNat = s.bufcnt.toNat + n.toNat - 64
        ∧ (∀ k, cellRead t.buf k =
            if k < s.bufcnt.toNat + n.toNat - 64
            then some (data.extractLsb' (24 - 8 * (64 - s.bufcnt.toNat + k)) 8) else none)
        ∧ t = { s with
            h := t.h, blkcnt := t.blkcnt, bufcnt := t.bufcnt, buf := t.buf, dp := t.dp, freeCount := t.freeCount
            rsp := some 0 }

/-- ABSORB of N bytes, where it succeeds, is N ABSORBs of one byte each, in stream order ("ABSORB with n bytes equals n
single-byte ABSORBs of its bytes in order", 20_memory.md section 2). -/
def Obligations.AbsorbSplitsIntoSingleBytes : Prop :=
  ∀ (s t : State) (n : BitVec 3) (data : Word), 1 ≤ n.toNat → exec (.absorb n data) s = .next t → t.err = false →
    execAll ((List.range n.toNat).map fun k =>
      .absorb 1 ((data.extractLsb' (24 - 8 * k) 8).setWidth 32 <<< 24)) s = .next t

/-- Two ways of splitting the same bytes into ABSORB commands, both without error, end in the same state but for the
response port ("Only this sequence determines the digest", 20_memory.md section 1). -/
def Obligations.PartitionsAgree : Prop :=
  ∀ (s t u : State) (cs ds : List (BitVec 3 × Word)), bytesOf cs = bytesOf ds →
    execAll (absorbAll cs) s = .next t → execAll (absorbAll ds) s = .next u → t.err = false → u.err = false →
      { t with rsp := none } = { u with rsp := none }

/-- After INIT and ABSORBs that carry the bytes m, however they are split, all commands complete without error and
BLKCNT, BUFCNT, BUF[0..BUFCNT-1] and H are the functions of m that 42_absorb.md ("All four depend only on s and not on
how s was split into commands") gives. That BUF[k] holds no value from k = BUFCNT on is the model's choice for bytes
the spec calls unspecified (log 4). -/
def Obligations.ChunkInvariantState : Prop :=
  ∀ (s : State) (cs : List (BitVec 3 × Word)), (∀ c ∈ cs, c.1.toNat ≤ 4) → (bytesOf cs).length < 2 ^ 61 →
    ∃ t, execAll (.init :: absorbAll cs) s = .next t ∧ t.err = false ∧ t.phase = .active ∧ t.digest = s.digest
      ∧ t.blkcnt.toNat = (bytesOf cs).length / 64
      ∧ t.bufcnt.toNat = (bytesOf cs).length % 64
      ∧ (∀ k, cellRead t.buf k =
          if k < (bytesOf cs).length % 64 then (bytesOf cs)[64 * ((bytesOf cs).length / 64) + k]? else none)
      ∧ t.h = chain (bytesOf cs) ((bytesOf cs).length / 64)

/-! ### FINALIZE -/

/-- R172 and R174: FINALIZE in ACTIVE completes; with c = BUFCNT and m the buffered bytes it compresses one padding
block for c <= 55 and two for c >= 56, with the length field BE64(L); DIGEST is BE32 of each word of the new H. PHASE is
CONSUMED, DVALID 1, BLKCNT, BUFCNT, ERR, CAUSE and the port are unchanged. -/
def Obligations.FinalizePadsAndSerializes : Prop :=
  ∀ (s : State) (m : List Byte), s.err = false → s.phase = .active → s.bufcnt.toNat ≤ 63 →
    cellReads s.buf 0 s.bufcnt.toNat = some m →
      ∃ t, exec .finalize s = .next t
        ∧ (if s.bufcnt.toNat ≤ 55 then
            ∃ p1 : Block, p1.toList = m ++ [0x80#8] ++ List.replicate (55 - s.bufcnt.toNat) 0#8
                ++ be64 (BitVec.ofNat 64 (s.blkcnt.toNat * 512 + s.bufcnt.toNat * 8))
              ∧ t.h = compressH p1 s.h
          else
            ∃ p1 p2 : Block, p1.toList = m ++ [0x80#8] ++ List.replicate (63 - s.bufcnt.toNat) 0#8
              ∧ p2.toList = List.replicate 56 0#8
                  ++ be64 (BitVec.ofNat 64 (s.blkcnt.toNat * 512 + s.bufcnt.toNat * 8))
              ∧ t.h = compressH p2 (compressH p1 s.h))
        ∧ (∀ (i : Fin 5) (k : Fin 4), t.digest[4 * i.val + k.val] = (t.h[i]).extractLsb' (24 - 8 * k.val) 8)
        ∧ t = { s with
            h := t.h, digest := t.digest, dp := t.dp, freeCount := t.freeCount, buf := t.buf, phase := .consumed
            dvalid := true, rsp := some 0 }
        ∧ (s.cause = .none → t.status = 6)

/-- LENGTH() is exact, with no modular reduction, where BUFCNT <= 63 ("It is exact, with no modular reduction",
43_finalize.md). -/
def Obligations.LengthIsExact : Prop :=
  ∀ s : State, s.bufcnt.toNat ≤ 63 → s.lengthBits.toNat = s.blkcnt.toNat * 512 + s.bufcnt.toNat * 8

/-- R173: the last 8 bytes of a final block hold BE64(L), byte 56 being L[63:56] and byte 63 L[7:0], so that W_14 is
L[63:32] and W_15 is L[31:0]. -/
def Obligations.LengthFieldWords : Prop :=
  ∀ (front : List Byte) (len : BitVec 64) (blk : Block), front.length = 56 → blk.toList = front ++ be64 len →
    (∀ j : Fin 8, blk[56 + j.val] = len.extractLsb' (56 - 8 * j.val) 8)
      ∧ (load blk)[14] = len.extractLsb' 32 32 ∧ (load blk)[15] = len.extractLsb' 0 32

/-- The one-shot DIGEST from every state: INIT, ABSORBS m, FINALIZE complete without error and leave in DIGEST the
digest of m, and the five RDDIG responses, each serialized with BE32, are that digest; the state before does not matter
(43_finalize.md and 44_readback.md, both marked derived there: "Its result does not depend on the state before it"). -/
def Obligations.DigestOfWholeMessage : Prop :=
  ∀ (s : State) (m : List Byte), m.length < 2 ^ 61 →
    ∃ t, execAll (digestCommands m) s = .next t ∧ t.phase = .consumed ∧ t.dvalid = true ∧ t.err = false
      ∧ t.digest.toList = digest m
      ∧ (answers digestReads t).flatMap be32 = digest m

/-! ### Reads -/

/-- R191 and R34: RDSTAT from every state answers STATUS, which is CAUSE << 4 OR ERR << 3 OR DVALID << 2 OR PHASE with
bits 31:8 zero, PHASE 3 and CAUSE 7..15 never read, zero at reset. -/
def Obligations.RdstatReadsStatus : Prop :=
  (∀ data : Word, decode 0x40000000#32 data = .ok .rdstat)
    ∧ (∀ s : State, exec .rdstat s = .next { s with rsp := some s.status })
    ∧ (∀ s : State, s.status = (s.cause.code.setWidth 32 <<< 4) ||| ((BitVec.ofBool s.err).setWidth 32 <<< 3)
        ||| ((BitVec.ofBool s.dvalid).setWidth 32 <<< 2) ||| s.phase.code.setWidth 32)
    ∧ (∀ s : State, s.status.extractLsb' 8 24 = 0 ∧ s.phase.code ≠ 3 ∧ s.cause.code.toNat ≤ 6)
    ∧ State.reset.status = 0

/-- RDDIG I with DVALID = 1 answers the four bytes DIGEST[4I..4I+3], the first on top, and changes nothing else
(44_readback.md). -/
def Obligations.RddigReadsDigestWord : Prop :=
  ∀ (s : State) (i : BitVec 3) (hi : i.toNat ≤ 4), s.err = false → s.dvalid = true →
    exec (.rddig i) s = .next { s with
      rsp := some (s.digest[4 * i.toNat]'(by omega) ++ s.digest[4 * i.toNat + 1]'(by omega)
        ++ s.digest[4 * i.toNat + 2]'(by omega) ++ s.digest[4 * i.toNat + 3]'(by omega)) }

/-- RDH I in ACTIVE or CONSUMED answers H[I] and changes nothing else (44_readback.md). -/
def Obligations.RdhReadsAccumulatorWord : Prop :=
  ∀ (s : State) (i : BitVec 3) (hi : i.toNat ≤ 4), s.err = false → s.phase ≠ .idle →
    exec (.rdh i) s = .next { s with rsp := some (s.h[i.toNat]'(by omega)) }

/-- RDBLK in ACTIVE or CONSUMED answers BLKCNT[31:0] for HALF = 0 and BLKCNT[54:32] for HALF = 1, of which bits 31:23
are zero, and changes nothing else (44_readback.md). -/
def Obligations.RdblkReadsCounterHalf : Prop :=
  ∀ (s : State) (half : BitVec 1), s.err = false → s.phase ≠ .idle →
    ∃ w : Word, exec (.rdblk half) s = .next { s with rsp := some w }
      ∧ (half = 0 → w.toNat = s.blkcnt.toNat % 2 ^ 32)
      ∧ (half = 1 → w.toNat = s.blkcnt.toNat / 2 ^ 32 ∧ w.extractLsb' 23 9 = 0)

/-- RDBUF in ACTIVE or CONSUMED answers BUFCNT and changes nothing else (44_readback.md). -/
def Obligations.RdbufReadsByteCount : Prop :=
  ∀ s : State, s.err = false → s.phase ≠ .idle →
    exec .rdbuf s = .next { s with rsp := some (BitVec.ofNat 32 s.bufcnt.toNat) }

/-- R56: a read that succeeds has no side effect, so the same read again answers the same word; a read that fails its
check writes only ERR and CAUSE. -/
def Obligations.ReadsAreFreeOfSideEffects : Prop :=
  ∀ (i : Instr) (s t : State), isRead i = true → exec i s = .next t →
    (t.err = s.err → t = { s with rsp := t.rsp } ∧ exec i t = .next t)
      ∧ (t.err ≠ s.err → t = { s with err := true, cause := t.cause, rsp := some 0 })

/-- Under the invariants, in CONSUMED, RDH I and RDDIG I return the same word for every I ("`RDH I` and `RDDIG I` return
the same word for every I", 44_readback.md, marked derived there). -/
def Obligations.RdhEqualsRddigAfterFinalize : Prop :=
  ∀ (s : State) (i : BitVec 3), s.Inv → s.phase = .consumed → s.err = false → i.toNat ≤ 4 →
    ∃ t, exec (.rdh i) s = .next t ∧ exec (.rddig i) s = .next t

/-! ### Errors -/

/-- With ERR = 0 every command raises exactly the error of the table of 60_exceptions.md, the earliest in the order
decode, phase and validity, length, with ERR and CAUSE written, the response 0 and nothing else changed; and a command
to which the table gives no error raises none. The error entry is a next state (log 2). -/
def Obligations.ErrorsOfCommands : Prop :=
  (∀ (i : Instr) (s : State) (c : Cause), s.err = false → errorOf i s = some c →
      exec i s = .next { s with err := true, cause := c, rsp := some 0 })
    ∧ ∀ (i : Instr) (s t : State), s.err = false → errorOf i s = none → exec i s = .next t → t.err = false

/-- The three outcomes of a command that 00_scope.md names, in the model's form of them (log 2). A command is a fault
exactly when ERR = 0 and the table of errors gives it a cause, and the fault names that cause. A refusal is only ever
ABSORB or FINALIZE in ACTIVE with ERR = 0, where a byte of BUF below BUFCNT holds no value (log 4) or BUFCNT is not a
count that a command boundary has (log 9). Everything else is a next state. A step with the invariants is never refused,
and where it is a fault the machine's step goes on with ERR and CAUSE written, rsp 0 and nothing else changed. -/
def Obligations.ThreeOutcomesOfCommands : Prop :=
  (∀ (i : Instr) (s : State) (f : Fault),
      contractOutcome s (exec i s) = .fault f ↔ s.err = false ∧ ∃ c, errorOf i s = some c ∧ f = .callerContract c)
    ∧ (∀ (i : Instr) (s : State) (r : Refusal), contractOutcome s (exec i s) = .refused r →
        s.err = false ∧ s.phase = .active ∧ ((∃ n d, i = .absorb n d) ∨ i = .finalize)
          ∧ ((r = .bufcntOutOfRange ∧ 64 ≤ s.bufcnt.toNat)
            ∨ (r = .bufUnwritten ∧ s.bufcnt.toNat < 64 ∧ ∃ k, k < s.bufcnt.toNat ∧ cellRead s.buf k = none)))
    ∧ ∀ s : State, s.Inv →
        (∃ t, contractStep s = .next t ∧ step s = .next t ∧ ¬ (s.err = false ∧ t.err = true))
          ∨ ∃ (c : Cause) (q : Request) (rest : List Request), contractStep s = .fault (.callerContract c)
              ∧ s.err = false ∧ c ≠ .none ∧ s.port = q :: rest
              ∧ step s = .next { s with port := rest, err := true, cause := c, rsp := some 0 }

/-- Errors are precise: a step that takes ERR from 0 to 1 runs a command, and changes nothing but ERR, CAUSE and the
ports ("The command that raises the error makes no other change", 60_exceptions.md section 2). The error entry is a
next state (log 2). -/
def Obligations.ErrorEntryIsPrecise : Prop :=
  ∀ s t : State, step s = .next t → faults s t = true →
    ∃ (cmd data : Word) (rest : List Request), s.port = .command cmd data :: rest
      ∧ t = { s with port := rest, err := true, cause := t.cause, rsp := some 0 } ∧ t.cause ≠ .none

/-- R217: a step on the word of INIT or on a reset clears ERR and CAUSE, from every state, and no other step does: with
ERR = 1 every other one keeps ERR and the first CAUSE. -/
def Obligations.OnlyInitAndResetClearErr : Prop :=
  (∀ (s : State) (r : Request) (rest : List Request), s.port = r :: rest → clearsError r = true →
      ∃ t, step s = .next t ∧ t.err = false ∧ t.cause = .none)
    ∧ ∀ s t : State, step s = .next t → s.err = true →
        (∀ (r : Request) (rest : List Request), s.port = r :: rest → clearsError r = false) →
          t.err = true ∧ t.cause = s.cause

/-- ERR = 0 after commands without INIT proves that every one of them succeeded: ERR was 0 after each prefix
(70_reset_and_hazards.md: "one RDSTAT with ERR = 0 after reading the digest proves that every command since the last
INIT succeeded"). -/
def Obligations.ErrZeroProvesSuccess : Prop :=
  ∀ (as bs : List Instr) (s t : State), .init ∉ as ++ bs → execAll (as ++ bs) s = .next t → t.err = false →
    s.err = false ∧ ∃ u, execAll as s = .next u ∧ u.err = false

/-! ### Rules of the whole machine -/

/-- The columns W of the access table of 10_state.md: no command writes an element that its column does not mark. The one
exception is the model's choice, log 4: INIT's column marks only BUFCNT in the row of BUF and BUFCNT, and the model drops
BUF's cells there, since every byte of BUF is unspecified from then on; INIT leaves the datapath as it is. -/
def Obligations.CommandsWriteOnlyTheirState : Prop :=
  ∀ (i : Instr) (s t : State), exec i s = .next t →
    t.port = s.port
      ∧ (i ≠ .finalize → t.digest = s.digest)
      ∧ (i ≠ .init ∧ i ≠ .finalize → t.phase = s.phase ∧ t.dvalid = s.dvalid)
      ∧ (i = .nop ∨ i = .rdstat → t.err = s.err ∧ t.cause = s.cause)
      ∧ (i ≠ .init ∧ (∀ n d, i ≠ .absorb n d) → t.blkcnt = s.blkcnt ∧ t.bufcnt = s.bufcnt)
      ∧ (i ≠ .init ∧ (∀ n d, i ≠ .absorb n d) ∧ i ≠ .finalize → t.h = s.h ∧ t.buf = s.buf)
      ∧ ((∀ n d, i ≠ .absorb n d) ∧ i ≠ .finalize → t.dp = s.dp ∧ t.freeCount = s.freeCount)
      ∧ (i = .init → t.buf = [])

/-- PHASE moves in three ways only: reset to IDLE, INIT to ACTIVE, and FINALIZE from ACTIVE to CONSUMED (10_state.md
section 5). -/
def Obligations.PhaseMovesOnlyByItsWriters : Prop :=
  ∀ s t : State, step s = .next t → t.phase ≠ s.phase →
    ∃ (r : Request) (rest : List Request), s.port = r :: rest
      ∧ ((t.phase = .idle ∧ (r = .reset ∨ ∃ cmd data, r = .commandReset cmd data))
        ∨ (t.phase = .active ∧ ∃ data, r = .command 0x10000000#32 data)
        ∨ (s.phase = .active ∧ t.phase = .consumed ∧ ∃ data, r = .command 0x30000000#32 data))

/-- R74: a read that succeeds answers its value, and every other command, one that raises an error and one that is
ignored answers 0, an illegal word among them from every state; and no command goes unanswered: from a state with the
invariants a step on a command always ends in a next state, with a response. -/
def Obligations.ResponseOfEveryCommand : Prop :=
  (∀ (i : Instr) (s t : State), exec i s = .next t →
      t.rsp = some (if s.err = true ∧ exempt i = false then 0 else if errorOf i s ≠ none then 0 else valueOf i s))
    ∧ (∀ (s : State) (cmd data : Word) (rest : List Request), s.port = .command cmd data :: rest →
        IllegalBits cmd → ∃ t, step s = .next t ∧ t.rsp = some 0)
    ∧ (∀ (s t : State) (cmd data : Word) (rest : List Request), s.port = .command cmd data :: rest →
        step s = .next t → t.rsp ≠ none)
    ∧ ∀ (s : State) (cmd data : Word) (rest : List Request), s.Inv → s.port = .command cmd data :: rest →
        ∃ t, step s = .next t ∧ t.rsp ≠ none

/-- The invariants of 10_state.md section 7 ("These invariants hold at every command boundary", marked derived there),
with those the model adds, are kept by every step from every state that has them. -/
def Obligations.StepKeepsInvariants : Prop :=
  ∀ s t : State, s.Inv → step s = .next t → t.Inv

/-- The state right after reset has the invariants. It holds values that the model chose (log 3, 4). -/
def Obligations.ResetMeetsInvariants : Prop :=
  State.reset.Inv

/-- From a state with the invariants no step stops: there is no fault and no refusal, so a read of state without a
value is never met (70_reset_and_hazards.md: "that refusal is unreachable"). -/
def Obligations.StepNeverStops : Prop :=
  ∀ s : State, s.Inv → ∃ t, step s = .next t

/-- No response and no specified state depends on an unspecified value: from two states that agree on what is
specified, one step gives again two such states, the response port equal (70_reset_and_hazards.md: "No command sequence
from reset can return an unspecified value in rsp"). -/
def Obligations.UnspecifiedStateNeverSeen : Prop :=
  ∀ s u t : State, SameSpecified s u → step s = .next t → ∃ t', step u = .next t' ∧ SameSpecified t t'

/-! ### The compressor -/

/-- R10: ROTL_n moves bit (i - n) mod 32 to bit i. -/
def Obligations.RotateLeftMovesBits : Prop :=
  ∀ (n : Nat) (x : Word) (i : Nat), 0 < n → n < 32 → i < 32 →
    rotl n x = (x <<< n) ||| (x >>> (32 - n)) ∧ (rotl n x).getLsbD i = x.getLsbD ((i + 32 - n) % 32)

/-- R110: LOAD reads the block as sixteen big-endian words. -/
def Obligations.LoadIsBigEndian : Prop :=
  ∀ (blk : Block) (j : Fin 16), (load blk)[j] =
    blk[4 * j.val] ++ blk[4 * j.val + 1] ++ blk[4 * j.val + 2] ++ blk[4 * j.val + 3]

/-- R112: EXPAND(t) writes into slot t mod 16 the rotation by 1 of the XOR of the slots of t-3, t-8, t-14 and of the
slot's own old value, and no other slot. -/
def Obligations.ExpandWritesOneSlot : Prop :=
  ∀ (t : Nat) (w : Vector Word 16) (j : Fin 16), 16 ≤ t → t ≤ 79 →
    (expand t w)[j] =
      if j.val = t % 16 then
        (w[(t - 3) % 16]'(Nat.mod_lt _ (by decide)) ^^^ w[(t - 8) % 16]'(Nat.mod_lt _ (by decide))
          ^^^ w[(t - 14) % 16]'(Nat.mod_lt _ (by decide)) ^^^ w[t % 16]'(Nat.mod_lt _ (by decide))).rotateLeft 1
      else w[j]

/-- F_CH selects y's bit where x's bit is 1 and z's where it is 0, F_PAR is the parity, F_MAJ the majority of the three
bits (41_compressor.md section 3, marked derived there: "the select property by a truth table of the formula"). -/
def Obligations.RoundFunctionsSelectAndVote : Prop :=
  ∀ (x y z : Word) (i : Nat),
    (fCh x y z).getLsbD i = (if x.getLsbD i then y.getLsbD i else z.getLsbD i)
      ∧ (fPar x y z).getLsbD i = Bool.xor (Bool.xor (x.getLsbD i) (y.getLsbD i)) (z.getLsbD i)
      ∧ (fMaj x y z).getLsbD i =
          decide (2 ≤ (x.getLsbD i).toNat + (y.getLsbD i).toNat + (z.getLsbD i).toNat)

/-- R120 with the stages of R118: ROUND(t) for t = 0..79, every right-hand side read before the round. -/
def Obligations.RoundRotatesVariables : Prop :=
  ∀ (t : Nat) (p : Datapath), t < 80 →
    roundStep t p = { p with
      a := p.a.rotateLeft 5 + stageF t p.b p.c p.d + p.e + stageK t + p.w[t % 16]'(Nat.mod_lt _ (by decide))
      b := p.a, c := p.b.rotateLeft 30, d := p.c, e := p.d }

/-- After n turns of COMPRESS's loop RC is n and the window holds the last sixteen words of the logical schedule, W_u in
slot u mod 16 (41_compressor.md section 2, marked derived there: "The window holds a sliding range of the
schedule"). -/
def Obligations.WindowHoldsSchedule : Prop :=
  ∀ (blk : Block) (h : Vector Word 5) (n u : Nat), n ≤ 80 → u < max 16 n → max 16 n ≤ u + 16 →
    (advances n (startDatapath blk h)).rc.val = n
      ∧ (advances n (startDatapath blk h)).w[slot u] = scheduleWord blk u

/-- COMPRESS with its 16-word window is COMPRESS over the logical 80-word schedule with the stages' other forms of the
round functions (41_compressor.md sections 2 to 5: "Any datapath that delivers W_t to round t is correct"). -/
def Obligations.CompressFollowsLogicalSchedule : Prop :=
  ∀ (blk : Block) (h : Vector Word 5), compressH blk h = compressLogical blk h

/-- The source's in-place round is the machine's ROUND: one in-place round, reading the word ROUND(t) reads, takes
registers that hold A..E in the roles of round t to registers that hold the machine's new A..E in the roles of round
t + 1; so after n turns of COMPRESS's loop the registers of n in-place rounds over the schedule hold A..E, and after all
80 COMPRESS adds them to H register by register (41_compressor.md section 4, marked derived there: "the results are
identical"). -/
def Obligations.InPlaceRoundsAgree : Prop :=
  (∀ (t : Nat) (v : Vector Word 5) (p : Datapath), t < 80 → InRoles t v p →
      InRoles (t + 1) (inPlaceRound t p.w[slot t] v) (roundStep t p))
    ∧ (∀ (blk : Block) (h : Vector Word 5) (n : Nat), n ≤ 80 →
        InRoles n (inPlaceAfter (scheduleWord blk) h n) (advances n (startDatapath blk h)))
    ∧ ∀ (blk : Block) (h : Vector Word 5) (j : Fin 5),
        (compressH blk h)[j] = h[j] + (inPlaceAfter (scheduleWord blk) h 80)[j]
end

