-- ==== Sys2Proof/Laws/State.lean ====
section
/-! SUPPORT. The fields of State after each named update: one lemma per field per update, so that no later proof
unfolds a record update. -/

namespace Sys2Proof.Machine

/-! ### respond -/

@[simp] theorem respond_h (w : Word) (s : State) : (respond w s).h = s.h := rfl
@[simp] theorem respond_blkcnt (w : Word) (s : State) : (respond w s).blkcnt = s.blkcnt := rfl
@[simp] theorem respond_buf (w : Word) (s : State) : (respond w s).buf = s.buf := rfl
@[simp] theorem respond_bufcnt (w : Word) (s : State) : (respond w s).bufcnt = s.bufcnt := rfl
@[simp] theorem respond_dp (w : Word) (s : State) : (respond w s).dp = s.dp := rfl
@[simp] theorem respond_digest (w : Word) (s : State) : (respond w s).digest = s.digest := rfl
@[simp] theorem respond_phase (w : Word) (s : State) : (respond w s).phase = s.phase := rfl
@[simp] theorem respond_dvalid (w : Word) (s : State) : (respond w s).dvalid = s.dvalid := rfl
@[simp] theorem respond_err (w : Word) (s : State) : (respond w s).err = s.err := rfl
@[simp] theorem respond_cause (w : Word) (s : State) : (respond w s).cause = s.cause := rfl
@[simp] theorem respond_port (w : Word) (s : State) : (respond w s).port = s.port := rfl
@[simp] theorem respond_rsp (w : Word) (s : State) : (respond w s).rsp = some w := rfl
@[simp] theorem respond_freeCount (w : Word) (s : State) : (respond w s).freeCount = s.freeCount := rfl

/-! ### errored -/

@[simp] theorem errored_h (c : Cause) (s : State) : (errored c s).h = s.h := rfl
@[simp] theorem errored_blkcnt (c : Cause) (s : State) : (errored c s).blkcnt = s.blkcnt := rfl
@[simp] theorem errored_buf (c : Cause) (s : State) : (errored c s).buf = s.buf := rfl
@[simp] theorem errored_bufcnt (c : Cause) (s : State) : (errored c s).bufcnt = s.bufcnt := rfl
@[simp] theorem errored_dp (c : Cause) (s : State) : (errored c s).dp = s.dp := rfl
@[simp] theorem errored_digest (c : Cause) (s : State) : (errored c s).digest = s.digest := rfl
@[simp] theorem errored_phase (c : Cause) (s : State) : (errored c s).phase = s.phase := rfl
@[simp] theorem errored_dvalid (c : Cause) (s : State) : (errored c s).dvalid = s.dvalid := rfl
@[simp] theorem errored_err (c : Cause) (s : State) : (errored c s).err = true := rfl
@[simp] theorem errored_cause (c : Cause) (s : State) : (errored c s).cause = c := rfl
@[simp] theorem errored_port (c : Cause) (s : State) : (errored c s).port = s.port := rfl
@[simp] theorem errored_rsp (c : Cause) (s : State) : (errored c s).rsp = some 0 := rfl
@[simp] theorem errored_freeCount (c : Cause) (s : State) : (errored c s).freeCount = s.freeCount := rfl

/-! ### clearError -/

@[simp] theorem clearError_h (s : State) : (clearError s).h = s.h := rfl
@[simp] theorem clearError_blkcnt (s : State) : (clearError s).blkcnt = s.blkcnt := rfl
@[simp] theorem clearError_buf (s : State) : (clearError s).buf = s.buf := rfl
@[simp] theorem clearError_bufcnt (s : State) : (clearError s).bufcnt = s.bufcnt := rfl
@[simp] theorem clearError_dp (s : State) : (clearError s).dp = s.dp := rfl
@[simp] theorem clearError_digest (s : State) : (clearError s).digest = s.digest := rfl
@[simp] theorem clearError_phase (s : State) : (clearError s).phase = s.phase := rfl
@[simp] theorem clearError_dvalid (s : State) : (clearError s).dvalid = s.dvalid := rfl
@[simp] theorem clearError_err (s : State) : (clearError s).err = false := rfl
@[simp] theorem clearError_cause (s : State) : (clearError s).cause = .none := rfl
@[simp] theorem clearError_port (s : State) : (clearError s).port = s.port := rfl
@[simp] theorem clearError_rsp (s : State) : (clearError s).rsp = s.rsp := rfl
@[simp] theorem clearError_freeCount (s : State) : (clearError s).freeCount = s.freeCount := rfl

/-! ### startMessage -/

@[simp] theorem startMessage_h (s : State) : (startMessage s).h = iv := rfl
@[simp] theorem startMessage_blkcnt (s : State) : (startMessage s).blkcnt = 0 := rfl
@[simp] theorem startMessage_buf (s : State) : (startMessage s).buf = [] := rfl
@[simp] theorem startMessage_bufcnt (s : State) : (startMessage s).bufcnt = 0 := rfl
@[simp] theorem startMessage_dp (s : State) : (startMessage s).dp = s.dp := rfl
@[simp] theorem startMessage_digest (s : State) : (startMessage s).digest = s.digest := rfl
@[simp] theorem startMessage_phase (s : State) : (startMessage s).phase = .active := rfl
@[simp] theorem startMessage_dvalid (s : State) : (startMessage s).dvalid = false := rfl
@[simp] theorem startMessage_err (s : State) : (startMessage s).err = false := rfl
@[simp] theorem startMessage_cause (s : State) : (startMessage s).cause = .none := rfl
@[simp] theorem startMessage_port (s : State) : (startMessage s).port = s.port := rfl
@[simp] theorem startMessage_rsp (s : State) : (startMessage s).rsp = s.rsp := rfl
@[simp] theorem startMessage_freeCount (s : State) : (startMessage s).freeCount = s.freeCount := rfl

/-! ### compress -/

@[simp] theorem compress_h (blk : Block) (s : State) : (compress blk s).h = compressH blk s.h := rfl
@[simp] theorem compress_blkcnt (blk : Block) (s : State) : (compress blk s).blkcnt = s.blkcnt := rfl
@[simp] theorem compress_buf (blk : Block) (s : State) : (compress blk s).buf = s.buf := rfl
@[simp] theorem compress_bufcnt (blk : Block) (s : State) : (compress blk s).bufcnt = s.bufcnt := rfl
@[simp] theorem compress_dp (blk : Block) (s : State) : (compress blk s).dp = freeDatapath s.freeCount := rfl
@[simp] theorem compress_digest (blk : Block) (s : State) : (compress blk s).digest = s.digest := rfl
@[simp] theorem compress_phase (blk : Block) (s : State) : (compress blk s).phase = s.phase := rfl
@[simp] theorem compress_dvalid (blk : Block) (s : State) : (compress blk s).dvalid = s.dvalid := rfl
@[simp] theorem compress_err (blk : Block) (s : State) : (compress blk s).err = s.err := rfl
@[simp] theorem compress_cause (blk : Block) (s : State) : (compress blk s).cause = s.cause := rfl
@[simp] theorem compress_port (blk : Block) (s : State) : (compress blk s).port = s.port := rfl
@[simp] theorem compress_rsp (blk : Block) (s : State) : (compress blk s).rsp = s.rsp := rfl
@[simp] theorem compress_freeCount (blk : Block) (s : State) : (compress blk s).freeCount = s.freeCount + 1 := rfl

/-! ### serialize -/

@[simp] theorem serialize_h (s : State) : (serialize s).h = s.h := rfl
@[simp] theorem serialize_blkcnt (s : State) : (serialize s).blkcnt = s.blkcnt := rfl
@[simp] theorem serialize_buf (s : State) : (serialize s).buf = s.buf := rfl
@[simp] theorem serialize_bufcnt (s : State) : (serialize s).bufcnt = s.bufcnt := rfl
@[simp] theorem serialize_dp (s : State) : (serialize s).dp = s.dp := rfl
@[simp] theorem serialize_digest (s : State) : (serialize s).digest = digestOf s.h := rfl
@[simp] theorem serialize_phase (s : State) : (serialize s).phase = s.phase := rfl
@[simp] theorem serialize_dvalid (s : State) : (serialize s).dvalid = s.dvalid := rfl
@[simp] theorem serialize_err (s : State) : (serialize s).err = s.err := rfl
@[simp] theorem serialize_cause (s : State) : (serialize s).cause = s.cause := rfl
@[simp] theorem serialize_port (s : State) : (serialize s).port = s.port := rfl
@[simp] theorem serialize_rsp (s : State) : (serialize s).rsp = s.rsp := rfl
@[simp] theorem serialize_freeCount (s : State) : (serialize s).freeCount = s.freeCount := rfl

/-! ### consume -/

@[simp] theorem consume_h (s : State) : (consume s).h = s.h := rfl
@[simp] theorem consume_blkcnt (s : State) : (consume s).blkcnt = s.blkcnt := rfl
@[simp] theorem consume_buf (s : State) : (consume s).buf = [] := rfl
@[simp] theorem consume_bufcnt (s : State) : (consume s).bufcnt = s.bufcnt := rfl
@[simp] theorem consume_dp (s : State) : (consume s).dp = s.dp := rfl
@[simp] theorem consume_digest (s : State) : (consume s).digest = s.digest := rfl
@[simp] theorem consume_phase (s : State) : (consume s).phase = .consumed := rfl
@[simp] theorem consume_dvalid (s : State) : (consume s).dvalid = true := rfl
@[simp] theorem consume_err (s : State) : (consume s).err = s.err := rfl
@[simp] theorem consume_cause (s : State) : (consume s).cause = s.cause := rfl
@[simp] theorem consume_port (s : State) : (consume s).port = s.port := rfl
@[simp] theorem consume_rsp (s : State) : (consume s).rsp = s.rsp := rfl
@[simp] theorem consume_freeCount (s : State) : (consume s).freeCount = s.freeCount := rfl

/-! ### applyReset -/

@[simp] theorem applyReset_h (s : State) : (applyReset s).h = Config.freeH s.freeCount := rfl
@[simp] theorem applyReset_blkcnt (s : State) : (applyReset s).blkcnt = Config.freeBlkcnt s.freeCount := rfl
@[simp] theorem applyReset_buf (s : State) : (applyReset s).buf = [] := rfl
@[simp] theorem applyReset_bufcnt (s : State) : (applyReset s).bufcnt = BitVec.ofNat 7 (Config.freeBufcnt s.freeCount).val := rfl
@[simp] theorem applyReset_dp (s : State) : (applyReset s).dp = freeDatapath s.freeCount := rfl
@[simp] theorem applyReset_digest (s : State) : (applyReset s).digest = Config.freeDigest s.freeCount := rfl
@[simp] theorem applyReset_phase (s : State) : (applyReset s).phase = .idle := rfl
@[simp] theorem applyReset_dvalid (s : State) : (applyReset s).dvalid = false := rfl
@[simp] theorem applyReset_err (s : State) : (applyReset s).err = false := rfl
@[simp] theorem applyReset_cause (s : State) : (applyReset s).cause = .none := rfl
@[simp] theorem applyReset_port (s : State) : (applyReset s).port = s.port := rfl
@[simp] theorem applyReset_rsp (s : State) : (applyReset s).rsp = none := rfl
@[simp] theorem applyReset_freeCount (s : State) : (applyReset s).freeCount = s.freeCount + 1 := rfl

/-! ### offerCommand -/

@[simp] theorem offerCommand_h (cmd data : Word) (s : State) : (offerCommand cmd data s).h = s.h := rfl
@[simp] theorem offerCommand_blkcnt (cmd data : Word) (s : State) : (offerCommand cmd data s).blkcnt = s.blkcnt := rfl
@[simp] theorem offerCommand_buf (cmd data : Word) (s : State) : (offerCommand cmd data s).buf = s.buf := rfl
@[simp] theorem offerCommand_bufcnt (cmd data : Word) (s : State) : (offerCommand cmd data s).bufcnt = s.bufcnt := rfl
@[simp] theorem offerCommand_dp (cmd data : Word) (s : State) : (offerCommand cmd data s).dp = s.dp := rfl
@[simp] theorem offerCommand_digest (cmd data : Word) (s : State) : (offerCommand cmd data s).digest = s.digest := rfl
@[simp] theorem offerCommand_phase (cmd data : Word) (s : State) : (offerCommand cmd data s).phase = s.phase := rfl
@[simp] theorem offerCommand_dvalid (cmd data : Word) (s : State) : (offerCommand cmd data s).dvalid = s.dvalid := rfl
@[simp] theorem offerCommand_err (cmd data : Word) (s : State) : (offerCommand cmd data s).err = s.err := rfl
@[simp] theorem offerCommand_cause (cmd data : Word) (s : State) : (offerCommand cmd data s).cause = s.cause := rfl
@[simp] theorem offerCommand_port (cmd data : Word) (s : State) : (offerCommand cmd data s).port = .command cmd data :: s.port := rfl
@[simp] theorem offerCommand_rsp (cmd data : Word) (s : State) : (offerCommand cmd data s).rsp = s.rsp := rfl
@[simp] theorem offerCommand_freeCount (cmd data : Word) (s : State) : (offerCommand cmd data s).freeCount = s.freeCount := rfl

end Sys2Proof.Machine
end

