-- ==== Sys2Proof/Laws/Ops.lean ====
section
/-! SUPPORT. What each shared operation over outcomes can do, said once: the gate and the checks of R216 as cases, and
the inversion of a sequence of two effects. -/

namespace Sys2Proof.Machine

/-! ### andThen -/

@[simp] theorem andThen_next (s : State) (k : State → Result) : andThen (.next s) k = k s := rfl

@[simp] theorem andThen_fault (f : Fault) (k : State → Result) : andThen (.fault f) k = .fault f := rfl

@[simp] theorem andThen_refused (f : Refusal) (k : State → Result) : andThen (.refused f) k = .refused f := rfl

/-- A sequence ends in a next state exactly when both its parts do. -/
theorem andThen_eq_next {r : Result} {k : State → Result} {t : State} :
    andThen r k = .next t ↔ ∃ u, r = .next u ∧ k u = .next t := by
  cases r <;> simp [andThen]

theorem andThen_assoc (r : Result) (k l : State → Result) :
    andThen (andThen r k) l = andThen r fun s => andThen (k s) l := by
  cases r <;> rfl

/-! ### Responses and errors -/

theorem complete_eq (s : State) : complete s = .next (respond 0 s) := rfl

theorem answer_eq (w : Word) (s : State) : answer w s = .next (respond w s) := rfl

theorem raiseError_eq (c : Cause) (s : State) : raiseError c s = .next (errored c s) := rfl

@[simp] theorem faults_errored (c : Cause) (s : State) : faults s (errored c s) = !s.err := by
  simp [faults, errored, respond]

/-- All that R13's outcome can be: the machine's own next state, where ERR did not go from 0 to 1; a fault where it
did; or the machine's own stop. -/
theorem contractOutcome_cases (s : State) (r : Result) :
    (∃ t, r = .next t ∧ faults s t = false ∧ contractOutcome s r = .next t)
    ∨ (∃ t, r = .next t ∧ faults s t = true ∧ contractOutcome s r = .fault (.callerContract t.cause))
    ∨ ((∀ t, r ≠ .next t) ∧ contractOutcome s r = r) := by
  cases r with
  | next t => cases hf : faults s t <;> simp [contractOutcome, hf]
  | fault f => exact .inr (.inr ⟨nofun, rfl⟩)
  | refused f => exact .inr (.inr ⟨nofun, rfl⟩)

theorem ignored_eq (s : State) : ignored s = .next (respond 0 s) := rfl

/-! ### The checks -/

/-- While ERR = 1 a gated command changes nothing and answers 0. -/
theorem gated_of_err {s : State} (k : State → Result) (h : s.err = true) : gated k s = .next (respond 0 s) := by
  simp [gated, h, ignored]

/-- With ERR = 0 a gated command goes on. -/
theorem gated_of_no_err {s : State} (k : State → Result) (h : s.err = false) : gated k s = k s := by
  simp [gated, h]

/-- An operand in 0..4 passes. -/
theorem checkOperand_of_le {v : BitVec 3} (k : State → Result) (s : State) (h : v.toNat ≤ 4) :
    checkOperand v k s = k s := by
  simp [checkOperand, operandLegal, h]

/-- An operand in 5..7 raises ILLEGAL_CMD. -/
theorem checkOperand_of_gt {v : BitVec 3} (k : State → Result) (s : State) (h : 4 < v.toNat) :
    checkOperand v k s = .next (errored .illegalCmd s) := by
  simp [checkOperand, operandLegal, Nat.not_le.mpr h, raiseError]

theorem needsMessage_idle {s : State} (k : State → Result) (h : s.phase = .idle) :
    needsMessage k s = .next (errored .notInit s) := by
  simp [needsMessage, h, raiseError]

theorem needsMessage_of_ne {s : State} (k : State → Result) (h : s.phase ≠ .idle) : needsMessage k s = k s := by
  cases hp : s.phase <;> simp_all [needsMessage]

theorem needsDigest_of_not {s : State} (k : State → Result) (h : s.dvalid = false) :
    needsDigest k s = .next (errored .digestNotValid s) := by
  simp [needsDigest, h, raiseError]

theorem needsDigest_of_valid {s : State} (k : State → Result) (h : s.dvalid = true) : needsDigest k s = k s := by
  simp [needsDigest, h]

theorem absorbPhase_idle {s : State} (k : State → Result) (h : s.phase = .idle) :
    absorbPhase k s = .next (errored .notInit s) := by
  simp [absorbPhase, h, raiseError]

theorem absorbPhase_consumed {s : State} (k : State → Result) (h : s.phase = .consumed) :
    absorbPhase k s = .next (errored .absorbAfterFinal s) := by
  simp [absorbPhase, h, raiseError]

theorem absorbPhase_active {s : State} (k : State → Result) (h : s.phase = .active) : absorbPhase k s = k s := by
  simp [absorbPhase, h]

theorem checkLength_over {s : State} {n : Nat} (k : State → Result) (h : 2 ^ 61 ≤ s.messageBytes + n) :
    checkLength n k s = .next (errored .lengthOverflow s) :=
  if_pos h

theorem checkLength_within {s : State} {n : Nat} (k : State → Result) (h : s.messageBytes + n < 2 ^ 61) :
    checkLength n k s = k s :=
  if_neg (Nat.not_le.mpr h)

theorem finalizePhase_idle {s : State} (k : State → Result) (h : s.phase = .idle) :
    finalizePhase k s = .next (errored .notInit s) := by
  simp [finalizePhase, h, raiseError]

theorem finalizePhase_consumed {s : State} (k : State → Result) (h : s.phase = .consumed) :
    finalizePhase k s = .next (errored .doubleFinalize s) := by
  simp [finalizePhase, h, raiseError]

theorem finalizePhase_active {s : State} (k : State → Result) (h : s.phase = .active) : finalizePhase k s = k s := by
  simp [finalizePhase, h]

/-! ### Operand forms -/

theorem accWord_of_le (h : Vector Word 5) {i : BitVec 3} (hi : i.toNat ≤ 4) :
    accWord h i = some (h[i.toNat]'(by omega)) := by
  simp [accWord, show i.toNat < 5 by omega]

theorem digestWord_of_le (d : Vector Byte 20) {i : BitVec 3} (hi : i.toNat ≤ 4) :
    digestWord d i = some (wordBE (d[4 * i.toNat]'(by omega)) (d[4 * i.toNat + 1]'(by omega))
      (d[4 * i.toNat + 2]'(by omega)) (d[4 * i.toNat + 3]'(by omega))) := by
  simp [digestWord, show i.toNat < 5 by omega]

/-- WORD_BE puts its bytes side by side, the first on top. -/
theorem wordBE_eq_append (b0 b1 b2 b3 : Byte) : wordBE b0 b1 b2 b3 = b0 ++ b1 ++ b2 ++ b3 := by
  apply BitVec.eq_of_getLsbD_eq
  intro i hi
  simp only [wordBE, BitVec.getLsbD_or, BitVec.getLsbD_shiftLeft, BitVec.getLsbD_setWidth, BitVec.getLsbD_append]
  by_cases h1 : i < 8
  · have h2 : i < 16 := by omega
    have h3 : i < 24 := by omega
    simp [h1, h2, h3, hi]
  · by_cases h2 : i < 16
    · have h3 : i < 24 := by omega
      have h4 : i - 8 < 8 := by omega
      simp [h1, h2, h3, h4, hi, BitVec.getLsbD_of_ge b3 i (by omega), show i - 8 < 32 by omega]
    · by_cases h3 : i < 24
      · have h4 : ¬ i - 8 < 8 := by omega
        have h5 : i - 16 < 8 := by omega
        simp [h1, h2, h3, h4, h5, hi, BitVec.getLsbD_of_ge b3 i (by omega), BitVec.getLsbD_of_ge b2 (i - 8) (by omega),
          show i - 8 - 8 = i - 16 by omega, show i - 16 < 32 by omega]
      · have h4 : ¬ i - 8 < 8 := by omega
        have h5 : ¬ i - 16 < 8 := by omega
        simp [h1, h2, h3, h4, h5, hi, BitVec.getLsbD_of_ge b3 i (by omega), BitVec.getLsbD_of_ge b2 (i - 8) (by omega),
          BitVec.getLsbD_of_ge b1 (i - 16) (by omega), show i - 8 - 8 = i - 16 by omega,
          show i - 16 - 8 = i - 24 by omega, show i - 24 < 32 by omega]

end Sys2Proof.Machine
end

