-- ==== Sys2Proof/Laws/Compressor.lean ====
section
/-! SUPPORT. What the compressor does: COMPRESS of a list of 64 bytes, one turn of its loop, and the window after
EXPAND. -/

namespace Sys2Proof.Machine

/-- COMPRESS of a list ends in a next state exactly when the list is a block. -/
theorem compressBytes_eq_next {bytes : List Byte} {s t : State} :
    compressBytes bytes s = .next t ↔ ∃ blk : Block, blk.toList = bytes ∧ t = compress blk s := by
  unfold compressBytes
  split
  · next h =>
    constructor
    · rintro ⟨⟩
      exact ⟨⟨bytes.toArray, h⟩, rfl, rfl⟩
    · rintro ⟨⟨arr, harr⟩, rfl, rfl⟩
      rfl
  · next h =>
    constructor
    · rintro ⟨⟩
    · rintro ⟨blk, rfl, -⟩
      simp at h

/-- COMPRESS of a block. -/
theorem compressBytes_toList (blk : Block) (s : State) : compressBytes blk.toList s = .next (compress blk s) :=
  compressBytes_eq_next.mpr ⟨blk, rfl, rfl⟩

/-- A list of 64 bytes is a block. -/
theorem exists_block {bytes : List Byte} (h : bytes.length = 64) : ∃ blk : Block, blk.toList = bytes :=
  ⟨⟨bytes.toArray, by simpa using h⟩, rfl⟩

/-- EXPAND(t) writes slot t mod 16 and no other (R112). -/
theorem expand_getElem (t : Nat) (w : Vector Word 16) (j : Nat) (hj : j < 16) :
    (expand t w)[j] =
      if j = t % 16 then rotl 1 (w[slot (t + 13)] ^^^ w[slot (t + 8)] ^^^ w[slot (t + 2)] ^^^ w[slot t]) else w[j] := by
  simp only [expand, slot, Fin.getElem_fin, Vector.getElem_set]
  simp only [eq_comm]

/-- RC counts a turn (R28). -/
theorem advance_rc {p : Datapath} (h : p.rc.val < 80) : (advance p).rc.val = p.rc.val + 1 := by
  simp [advance, h, nextRc]

/-- A turn before RC = 80 is the one at t = RC (R126). -/
theorem advance_of_lt {p : Datapath} (h : p.rc.val < 80) :
    advance p = { turn p.rc.val p with rc := nextRc p.rc } := by
  simp [advance, h]

/-- The last of n + 1 turns. -/
theorem advances_succ_last (n : Nat) (p : Datapath) : advances (n + 1) p = advance (advances n p) := by
  induction n generalizing p with
  | zero => rfl
  | succ n ih => exact ih (advance p)

/-- After n turns from RC = 0, RC is n, up to 80 (R28). -/
theorem advances_rc {n : Nat} {p : Datapath} (h : p.rc.val + n ≤ 80) : (advances n p).rc.val = p.rc.val + n := by
  induction n with
  | zero => rfl
  | succ n ih =>
    have := ih (by omega)
    rw [advances_succ_last, advance_rc (by omega), this]
    omega

/-- The n-th turn from RC = 0 is the turn at t = n. -/
theorem advances_start_succ {n : Nat} (blk : Block) (h : Vector Word 5) (hn : n < 80) :
    advances (n + 1) (startDatapath blk h) =
      { turn n (advances n (startDatapath blk h)) with rc := nextRc (advances n (startDatapath blk h)).rc } := by
  have hrc : (advances n (startDatapath blk h)).rc.val = n := by
    simpa [startDatapath] using advances_rc (n := n) (p := startDatapath blk h) (by simp [startDatapath]; omega)
  rw [advances_succ_last, advance_of_lt (by omega), hrc]

end Sys2Proof.Machine
end

