-- ==== Sys2Proof/Laws/Memory.lean ====
section
/-! SUPPORT. The laws of BUF's cells: reading after writing, reading a run of bytes, and the canonical form that every
write keeps. -/

namespace Sys2Proof.Machine

@[simp] theorem cellRead_nil (k : Nat) : cellRead [] k = none := rfl

/-- A byte reads as what was written to it. -/
@[simp] theorem cellRead_cellWrite_same (m : List Host.Cell) (k : Nat) (v : Byte) :
    cellRead (cellWrite m k v) k = some v := by
  induction m with
  | nil => simp [cellWrite, cellRead]
  | cons c rest ih =>
    obtain ⟨a, b⟩ := c
    simp only [cellWrite]
    split
    · simp [cellRead]
    · split
      · simp [cellRead]
      · rename_i h1 h2
        simp [cellRead, Ne.symm h2, ih]

/-- A write leaves every other byte as it reads. -/
theorem cellRead_cellWrite_other (m : List Host.Cell) {k j : Nat} (v : Byte) (h : j ≠ k) :
    cellRead (cellWrite m k v) j = cellRead m j := by
  induction m with
  | nil => simp [cellWrite, cellRead, Ne.symm h]
  | cons c rest ih =>
    obtain ⟨a, b⟩ := c
    simp only [cellWrite]
    split
    · simp [cellRead, Ne.symm h]
    · split
      · rename_i h1 h2
        subst h2
        simp [cellRead, Ne.symm h]
      · simp [cellRead, ih]

theorem cellRead_cellWrite (m : List Host.Cell) (k j : Nat) (v : Byte) :
    cellRead (cellWrite m k v) j = if j = k then some v else cellRead m j := by
  split
  · next h => subst h; simp
  · next h => exact cellRead_cellWrite_other m v h

/-- Writing inside BUF keeps the canonical form above a lower bound. -/
theorem cellsFrom_cellWrite (m : List Host.Cell) (lo k : Nat) (v : Byte) (hlo : lo ≤ k) (hk : k < bufSize)
    (h : cellsFrom lo m = true) : cellsFrom lo (cellWrite m k v) = true := by
  induction m generalizing lo with
  | nil => simp [cellWrite, cellsFrom, hlo, hk]
  | cons c rest ih =>
    obtain ⟨a, b⟩ := c
    simp only [cellsFrom, Bool.and_eq_true, decide_eq_true_eq] at h
    obtain ⟨⟨h1, h2⟩, h3⟩ := h
    simp only [cellWrite]
    split
    · next hlt => simp [cellsFrom, hlo, hk, h2, h3, Nat.succ_le_of_lt hlt]
    · split
      · next heq => subst heq; simp [cellsFrom, h1, h2, h3]
      · simp [cellsFrom, h1, h2, ih (a + 1) (by omega) h3]

@[simp] theorem wf_nil : Memory.wf [] = true := rfl

/-- Every write inside BUF keeps the canonical form. -/
theorem wf_cellWrite (m : List Host.Cell) (k : Nat) (v : Byte) (hk : k < bufSize) (h : Memory.wf m = true) :
    Memory.wf (cellWrite m k v) = true :=
  cellsFrom_cellWrite m 0 k v (Nat.zero_le k) hk h

/-- Above its lower bound a canonical list holds no byte below it. -/
theorem cellRead_below (m : List Host.Cell) (lo k : Nat) (h : cellsFrom lo m = true) (hk : k < lo) :
    cellRead m k = none := by
  induction m generalizing lo with
  | nil => rfl
  | cons c rest ih =>
    obtain ⟨a, b⟩ := c
    simp only [cellsFrom, Bool.and_eq_true, decide_eq_true_eq] at h
    simp [cellRead, show a ≠ k by omega, ih (a + 1) h.2 (by omega)]

/-- A run of bytes reads exactly when each of them does. -/
theorem cellReads_eq_some (m : List Host.Cell) (k n : Nat) (bs : List Byte) :
    cellReads m k n = some bs ↔ bs.length = n ∧ ∀ j, j < n → cellRead m (k + j) = bs[j]? := by
  induction n generalizing k bs with
  | zero => cases bs <;> simp [cellReads]
  | succ n ih =>
    simp only [cellReads]
    constructor
    · intro h
      split at h
      · next b bs' hb hbs =>
        cases h
        obtain ⟨hl, hr⟩ := (ih (k + 1) bs').mp hbs
        refine ⟨by simp [hl], fun j hj => ?_⟩
        cases j with
        | zero => simpa using hb
        | succ j => simpa [Nat.add_assoc, Nat.add_comm 1 j] using hr j (by omega)
      · cases h
    · rintro ⟨hl, hr⟩
      cases bs with
      | nil => simp at hl
      | cons b bs' =>
        have hb : cellRead m k = some b := by simpa using hr 0 (by omega)
        have hbs : cellReads m (k + 1) n = some bs' :=
          (ih (k + 1) bs').mpr ⟨by simpa using hl, fun j hj => by
            simpa [Nat.add_assoc, Nat.add_comm 1 j] using hr (j + 1) (by omega)⟩
        simp [hb, hbs]

theorem cellReads_length {m : List Host.Cell} {k n : Nat} {bs : List Byte} (h : cellReads m k n = some bs) :
    bs.length = n :=
  ((cellReads_eq_some m k n bs).mp h).1

/-- A run of bytes reads when all of them hold a value. -/
theorem cellReads_isSome (m : List Host.Cell) (k n : Nat) (h : ∀ j, j < n → (cellRead m (k + j)).isSome) :
    ∃ bs, cellReads m k n = some bs := by
  induction n generalizing k with
  | zero => exact ⟨[], rfl⟩
  | succ n ih =>
    obtain ⟨bs, hbs⟩ := ih (k + 1) fun j hj => by simpa [Nat.add_assoc, Nat.add_comm 1 j] using h (j + 1) (by omega)
    obtain ⟨b, hb⟩ := Option.isSome_iff_exists.mp (h 0 (by omega))
    exact ⟨b :: bs, by simp only [Nat.add_zero] at hb; simp [cellReads, hb, hbs]⟩

end Sys2Proof.Machine
end

