-- ==== Sys2Proof/Laws/Absorb.lean ====
section
/-! SUPPORT. What ABSORB_BYTE and ABSORB can do, said once: each ends in a next state only in the cases listed. -/

namespace Sys2Proof.Machine

/-- BUFCNT counts one byte without wrapping while it is at most 63. -/
theorem bufcnt_succ {c : BitVec 7} (h : c.toNat < 64) : (c + 1).toNat = c.toNat + 1 := by
  simp only [BitVec.toNat_add]
  exact Nat.mod_eq_of_lt (by have : (1 : BitVec 7).toNat = 1 := rfl; omega)

/-- A flush ends in a next state exactly when all 64 bytes of BUF hold a value. -/
theorem flush_eq_next {s t : State} :
    flush s = .next t ↔ ∃ blk : Block, cellReads s.buf 0 64 = some blk.toList ∧ t = startBlock (compress blk s) := by
  have h64 : bufSize = 64 := rfl
  unfold flush
  rw [h64]
  cases hr : cellReads s.buf 0 64 with
  | none => simp
  | some bytes =>
    simp only [andThen_eq_next, compressBytes_eq_next]
    constructor
    · rintro ⟨u, ⟨blk, rfl, rfl⟩, h⟩
      cases h
      exact ⟨blk, rfl, rfl⟩
    · rintro ⟨blk, hb, rfl⟩
      exact ⟨compress blk s, ⟨blk, (Option.some.inj hb).symm, rfl⟩, rfl⟩

theorem landByte_bufcnt {b : Byte} {s : State} (h : s.bufcnt.toNat < 64) :
    (landByte b s).bufcnt.toNat = s.bufcnt.toNat + 1 :=
  bufcnt_succ h

/-- A byte that does not fill the block only lands. -/
theorem absorbByte_of_lt {b : Byte} {s : State} (h : s.bufcnt.toNat < 63) : absorbByte b s = .next (landByte b s) := by
  have h1 : ¬ bufSize ≤ s.bufcnt.toNat := by simp only [bufSize]; omega
  have h2 : (landByte b s).bufcnt.toNat ≠ bufSize := by rw [landByte_bufcnt (by omega)]; simp only [bufSize]; omega
  rw [absorbByte, if_neg h1, if_neg h2]

/-- The byte that fills the block flushes it. -/
theorem absorbByte_of_eq {b : Byte} {s : State} (h : s.bufcnt.toNat = 63) :
    absorbByte b s = flush (landByte b s) := by
  have h1 : ¬ bufSize ≤ s.bufcnt.toNat := by simp only [bufSize]; omega
  have h2 : (landByte b s).bufcnt.toNat = bufSize := by rw [landByte_bufcnt (by omega), h]; rfl
  rw [absorbByte, if_neg h1, if_pos h2]

/-- ABSORB_BYTE ends in a next state in two cases only: the byte lands, or it lands and the full block is flushed. -/
theorem absorbByte_cases {b : Byte} {s t : State} (h : absorbByte b s = .next t) :
    (s.bufcnt.toNat < 63 ∧ t = landByte b s) ∨
      (s.bufcnt.toNat = 63 ∧ ∃ blk : Block,
        cellReads (landByte b s).buf 0 64 = some blk.toList ∧ t = startBlock (compress blk (landByte b s))) := by
  rcases Nat.lt_trichotomy s.bufcnt.toNat 63 with hlt | heq | hgt
  · rw [absorbByte_of_lt hlt] at h
    exact .inl ⟨hlt, by cases h; rfl⟩
  · rw [absorbByte_of_eq heq, flush_eq_next] at h
    exact .inr ⟨heq, h⟩
  · have : bufSize ≤ s.bufcnt.toNat := hgt
    simp [absorbByte, this] at h

@[simp] theorem absorbBytes_nil (s : State) : absorbBytes [] s = .next s := rfl

theorem absorbBytes_cons (b : Byte) (bs : List Byte) (s : State) :
    absorbBytes (b :: bs) s = andThen (absorbByte b s) (absorbBytes bs) := rfl

/-- Bytes are absorbed one after another, however they are grouped (R51). -/
theorem absorbBytes_append (as bs : List Byte) (s : State) :
    absorbBytes (as ++ bs) s = andThen (absorbBytes as s) (absorbBytes bs) := by
  induction as generalizing s with
  | nil => rfl
  | cons a as ih =>
    simp only [List.cons_append, absorbBytes_cons, andThen_assoc]
    congr 1
    funext u
    exact ih u

/-- What ABSORB_BYTE never touches. -/
theorem absorbByte_frame {b : Byte} {s t : State} (h : absorbByte b s = .next t) :
    t.digest = s.digest ∧ t.phase = s.phase ∧ t.dvalid = s.dvalid ∧ t.err = s.err ∧ t.cause = s.cause
      ∧ t.port = s.port ∧ t.rsp = s.rsp := by
  rcases absorbByte_cases h with ⟨-, rfl⟩ | ⟨-, blk, -, rfl⟩ <;> simp [landByte, startBlock]

/-- What absorbing bytes never touches. -/
theorem absorbBytes_frame {bs : List Byte} {s t : State} (h : absorbBytes bs s = .next t) :
    t.digest = s.digest ∧ t.phase = s.phase ∧ t.dvalid = s.dvalid ∧ t.err = s.err ∧ t.cause = s.cause
      ∧ t.port = s.port ∧ t.rsp = s.rsp := by
  induction bs generalizing s with
  | nil => cases h; simp
  | cons b bs ih =>
    obtain ⟨u, hu, ht⟩ := andThen_eq_next.mp (absorbBytes_cons b bs s ▸ h)
    have hf := absorbByte_frame hu
    have hg := ih ht
    simp_all

/-- ABSORB_BYTE keeps the canonical form of BUF's cells. -/
theorem absorbByte_wf {b : Byte} {s t : State} (h : absorbByte b s = .next t) (hwf : Memory.wf s.buf = true) :
    Memory.wf t.buf = true := by
  rcases absorbByte_cases h with ⟨hlt, rfl⟩ | ⟨-, blk, -, rfl⟩
  · exact wf_cellWrite _ _ _ (by simp [bufSize]; omega) hwf
  · simp [startBlock]

/-- Absorbing bytes keeps the canonical form of BUF's cells. -/
theorem absorbBytes_wf {bs : List Byte} {s t : State} (h : absorbBytes bs s = .next t)
    (hwf : Memory.wf s.buf = true) : Memory.wf t.buf = true := by
  induction bs generalizing s with
  | nil => cases h; exact hwf
  | cons b bs ih =>
    obtain ⟨u, hu, ht⟩ := andThen_eq_next.mp (absorbBytes_cons b bs s ▸ h)
    exact ih ht (absorbByte_wf hu hwf)

/-- ABSORB ends in a next state in three cases only: it is ignored, it raises one of its errors, or its bytes are
absorbed (R150, R216). -/
theorem execAbsorb_cases {n : BitVec 3} {data : Word} {s t : State} (h : execAbsorb n data s = .next t) :
    (s.err = true ∧ t = respond 0 s) ∨
      (s.err = false ∧ ∃ c : Cause, c ≠ .none ∧ t = errored c s) ∨
      (s.err = false ∧ n.toNat ≤ 4 ∧ s.phase = .active ∧ s.messageBytes + n.toNat < 2 ^ 61 ∧
        ∃ u, absorbBytes (dataBytes n data) s = .next u ∧ t = respond 0 u) := by
  unfold execAbsorb at h
  by_cases he : s.err = true
  · rw [gated_of_err _ he] at h
    exact .inl ⟨he, by cases h; rfl⟩
  have he' : s.err = false := by simpa using he
  rw [gated_of_no_err _ he'] at h
  refine .inr ?_
  by_cases hn : n.toNat ≤ 4
  · rw [checkOperand_of_le _ _ hn] at h
    cases hp : s.phase with
    | idle => rw [absorbPhase_idle _ hp] at h; exact .inl ⟨he', .notInit, by decide, by cases h; rfl⟩
    | consumed => rw [absorbPhase_consumed _ hp] at h; exact .inl ⟨he', .absorbAfterFinal, by decide, by cases h; rfl⟩
    | active =>
      rw [absorbPhase_active _ hp] at h
      by_cases hl : s.messageBytes + n.toNat < 2 ^ 61
      · rw [checkLength_within _ hl, andThen_eq_next] at h
        obtain ⟨u, hu, ht⟩ := h
        exact .inr ⟨he', hn, rfl, hl, u, hu, by cases ht; rfl⟩
      · rw [checkLength_over _ (Nat.not_lt.mp hl)] at h
        exact .inl ⟨he', .lengthOverflow, by decide, by cases h; rfl⟩
  · rw [checkOperand_of_gt _ _ (Nat.not_le.mp hn)] at h
    exact .inl ⟨he', .illegalCmd, by decide, by cases h; rfl⟩

/-- ABSORB in ACTIVE with its checks passed absorbs its bytes. -/
theorem execAbsorb_success {n : BitVec 3} {data : Word} {s : State} (he : s.err = false) (hn : n.toNat ≤ 4)
    (hp : s.phase = .active) (hl : s.messageBytes + n.toNat < 2 ^ 61) :
    execAbsorb n data s = andThen (absorbBytes (dataBytes n data) s) complete := by
  unfold execAbsorb
  rw [gated_of_no_err _ he, checkOperand_of_le _ _ hn, absorbPhase_active _ hp, checkLength_within _ hl]

end Sys2Proof.Machine
end

