-- ==== Sys2Proof/Laws/Finalize.lean ====
section
/-! SUPPORT. What FINALIZE can do, said once: the padding blocks, the effect in ACTIVE, and the three cases of the
command. -/

namespace Sys2Proof.Machine

@[simp] theorem zeros_length (k : Nat) : (zeros k).length = k := by simp [zeros]

@[simp] theorem be64_length (v : BitVec 64) : (be64 v).length = 8 := rfl

/-- Up to 55 buffered bytes the padding is one block (R172, R175). -/
theorem padAndCompress_one {len : BitVec 64} {m : List Byte} (s : State) (h : m.length ≤ 55) :
    ∃ blk : Block, blk.toList = m ++ [0x80#8] ++ zeros (55 - m.length) ++ be64 len ∧
      padAndCompress len m s = .next (compress blk s) := by
  obtain ⟨blk, hb⟩ := exists_block (bytes := m ++ [0x80#8] ++ zeros (55 - m.length) ++ be64 len)
    (by simp; omega)
  refine ⟨blk, hb, ?_⟩
  rw [padAndCompress, if_pos h, ← hb, compressBytes_toList]

/-- From 56 to 63 buffered bytes the padding is two blocks (R172, R175). -/
theorem padAndCompress_two {len : BitVec 64} {m : List Byte} (s : State) (h : 56 ≤ m.length) (h' : m.length ≤ 63) :
    ∃ p1 p2 : Block, p1.toList = m ++ [0x80#8] ++ zeros (63 - m.length) ∧ p2.toList = zeros 56 ++ be64 len ∧
      padAndCompress len m s = .next (compress p2 (compress p1 s)) := by
  obtain ⟨p1, h1⟩ := exists_block (bytes := m ++ [0x80#8] ++ zeros (63 - m.length)) (by simp; omega)
  obtain ⟨p2, h2⟩ := exists_block (bytes := zeros 56 ++ be64 len) (by simp)
  refine ⟨p1, p2, h1, h2, ?_⟩
  rw [padAndCompress, if_neg (by omega), ← h1, ← h2, compressBytes_toList, andThen_next, compressBytes_toList]

/-- The padding compressions change H, the datapath and the count of free values, and nothing else. -/
theorem padAndCompress_frame {len : BitVec 64} {m : List Byte} {s t : State} (h : padAndCompress len m s = .next t) :
    t = { s with h := t.h, dp := t.dp, freeCount := t.freeCount } := by
  unfold padAndCompress at h
  split at h
  · obtain ⟨blk, -, rfl⟩ := compressBytes_eq_next.mp h
    rfl
  · obtain ⟨u, hu, ht⟩ := andThen_eq_next.mp h
    obtain ⟨p1, -, rfl⟩ := compressBytes_eq_next.mp hu
    obtain ⟨p2, -, rfl⟩ := compressBytes_eq_next.mp ht
    rfl

/-- The effect of FINALIZE ends in a next state only when BUFCNT is at most 63 and the buffered bytes hold values. -/
theorem finishMessage_eq_next {s t : State} :
    finishMessage s = .next t ↔ s.bufcnt.toNat < 64 ∧ ∃ m u, cellReads s.buf 0 s.bufcnt.toNat = some m ∧
      padAndCompress s.lengthBits m s = .next u ∧ t = respond 0 (consume (serialize u)) := by
  have h64 : bufSize = 64 := rfl
  unfold finishMessage
  rw [h64]
  by_cases h : 64 ≤ s.bufcnt.toNat
  · simp [h]
  · rw [if_neg h]
    cases hr : cellReads s.buf 0 s.bufcnt.toNat with
    | none => simp
    | some m =>
      simp only [andThen_eq_next]
      constructor
      · rintro ⟨u, hu, ht⟩
        exact ⟨by omega, m, u, rfl, hu, by cases ht; rfl⟩
      · rintro ⟨-, m', u, hm, hu, rfl⟩
        cases hm
        exact ⟨u, hu, rfl⟩

/-- FINALIZE ends in a next state in three cases only: it is ignored, it raises one of its errors, or it finishes the
message (R170, R216). -/
theorem execFinalize_cases {s t : State} (h : execFinalize s = .next t) :
    (s.err = true ∧ t = respond 0 s) ∨
      (s.err = false ∧ ∃ c : Cause, c ≠ .none ∧ t = errored c s) ∨
      (s.err = false ∧ s.phase = .active ∧ finishMessage s = .next t) := by
  unfold execFinalize at h
  by_cases he : s.err = true
  · rw [gated_of_err _ he] at h
    exact .inl ⟨he, by cases h; rfl⟩
  have he' : s.err = false := by simpa using he
  rw [gated_of_no_err _ he'] at h
  refine .inr ?_
  cases hp : s.phase with
  | idle => rw [finalizePhase_idle _ hp] at h; exact .inl ⟨he', .notInit, by decide, by cases h; rfl⟩
  | consumed => rw [finalizePhase_consumed _ hp] at h; exact .inl ⟨he', .doubleFinalize, by decide, by cases h; rfl⟩
  | active => rw [finalizePhase_active _ hp] at h; exact .inr ⟨he', rfl, h⟩

/-- FINALIZE in ACTIVE finishes the message. -/
theorem execFinalize_success {s : State} (he : s.err = false) (hp : s.phase = .active) :
    execFinalize s = finishMessage s := by
  unfold execFinalize
  rw [gated_of_no_err _ he, finalizePhase_active _ hp]

end Sys2Proof.Machine
end

