-- ==== Sys2Proof/Laws/Readback.lean ====
section
/-! SUPPORT. What the read commands can do, said once: each is ignored, raises one of its errors, or answers its value
and changes nothing else. -/

namespace Sys2Proof.Machine

/-- The three cases of a gated read: ignored, an error, or the answer `w` (R190, R215, R56). -/
def ReadCases (w : Word) (s t : State) : Prop :=
  (s.err = true ∧ t = respond 0 s) ∨ (s.err = false ∧ ∃ c : Cause, c ≠ .none ∧ t = errored c s) ∨
    (s.err = false ∧ t = respond w s)

theorem execRddig_of_err {i : BitVec 3} {s : State} (he : s.err = true) :
    execRddig i s = .next (respond 0 s) :=
  gated_of_err _ he

theorem execRddig_success {i : BitVec 3} {s : State} (he : s.err = false) (hi : i.toNat ≤ 4) (hd : s.dvalid = true) :
    execRddig i s = .next (respond (wordBE (s.digest[4 * i.toNat]'(by omega)) (s.digest[4 * i.toNat + 1]'(by omega))
      (s.digest[4 * i.toNat + 2]'(by omega)) (s.digest[4 * i.toNat + 3]'(by omega))) s) := by
  unfold execRddig
  rw [gated_of_no_err _ he, checkOperand_of_le _ _ hi, needsDigest_of_valid _ hd, digestWord_of_le _ hi]
  rfl

/-- RDDIG always ends in a next state. -/
theorem execRddig_cases (i : BitVec 3) (s : State) :
    ∃ t w, execRddig i s = .next t ∧ ReadCases w s t := by
  by_cases he : s.err = true
  · exact ⟨_, 0, execRddig_of_err he, .inl ⟨he, rfl⟩⟩
  have he' : s.err = false := by simpa using he
  by_cases hi : i.toNat ≤ 4
  · by_cases hd : s.dvalid = true
    · exact ⟨_, _, execRddig_success he' hi hd, .inr (.inr ⟨he', rfl⟩)⟩
    · refine ⟨_, 0, ?_, .inr (.inl ⟨he', .digestNotValid, by decide, rfl⟩)⟩
      unfold execRddig
      rw [gated_of_no_err _ he', checkOperand_of_le _ _ hi, needsDigest_of_not _ (by simpa using hd)]
  · refine ⟨_, 0, ?_, .inr (.inl ⟨he', .illegalCmd, by decide, rfl⟩)⟩
    unfold execRddig
    rw [gated_of_no_err _ he', checkOperand_of_gt _ _ (Nat.not_le.mp hi)]

theorem execRdh_of_err {i : BitVec 3} {s : State} (he : s.err = true) : execRdh i s = .next (respond 0 s) :=
  gated_of_err _ he

theorem execRdh_success {i : BitVec 3} {s : State} (he : s.err = false) (hi : i.toNat ≤ 4) (hp : s.phase ≠ .idle) :
    execRdh i s = .next (respond (s.h[i.toNat]'(by omega)) s) := by
  unfold execRdh
  rw [gated_of_no_err _ he, checkOperand_of_le _ _ hi, needsMessage_of_ne _ hp, accWord_of_le _ hi]
  rfl

/-- RDH always ends in a next state. -/
theorem execRdh_cases (i : BitVec 3) (s : State) : ∃ t w, execRdh i s = .next t ∧ ReadCases w s t := by
  by_cases he : s.err = true
  · exact ⟨_, 0, execRdh_of_err he, .inl ⟨he, rfl⟩⟩
  have he' : s.err = false := by simpa using he
  by_cases hi : i.toNat ≤ 4
  · by_cases hp : s.phase = .idle
    · refine ⟨_, 0, ?_, .inr (.inl ⟨he', .notInit, by decide, rfl⟩)⟩
      unfold execRdh
      rw [gated_of_no_err _ he', checkOperand_of_le _ _ hi, needsMessage_idle _ hp]
    · exact ⟨_, _, execRdh_success he' hi hp, .inr (.inr ⟨he', rfl⟩)⟩
  · refine ⟨_, 0, ?_, .inr (.inl ⟨he', .illegalCmd, by decide, rfl⟩)⟩
    unfold execRdh
    rw [gated_of_no_err _ he', checkOperand_of_gt _ _ (Nat.not_le.mp hi)]

theorem execRdblk_of_err {half : BitVec 1} {s : State} (he : s.err = true) :
    execRdblk half s = .next (respond 0 s) :=
  gated_of_err _ he

theorem execRdblk_success {half : BitVec 1} {s : State} (he : s.err = false) (hp : s.phase ≠ .idle) :
    execRdblk half s = .next (respond (blkcntHalf half s.blkcnt) s) := by
  unfold execRdblk
  rw [gated_of_no_err _ he, needsMessage_of_ne _ hp]
  rfl

theorem execRdblk_idle {half : BitVec 1} {s : State} (he : s.err = false) (hp : s.phase = .idle) :
    execRdblk half s = .next (errored .notInit s) := by
  unfold execRdblk
  rw [gated_of_no_err _ he, needsMessage_idle _ hp]

/-- RDBLK always ends in a next state. -/
theorem execRdblk_cases (half : BitVec 1) (s : State) : ∃ t w, execRdblk half s = .next t ∧ ReadCases w s t := by
  by_cases he : s.err = true
  · exact ⟨_, 0, execRdblk_of_err he, .inl ⟨he, rfl⟩⟩
  have he' : s.err = false := by simpa using he
  by_cases hp : s.phase = .idle
  · exact ⟨_, 0, execRdblk_idle he' hp, .inr (.inl ⟨he', .notInit, by decide, rfl⟩)⟩
  · exact ⟨_, _, execRdblk_success he' hp, .inr (.inr ⟨he', rfl⟩)⟩

theorem execRdbuf_of_err {s : State} (he : s.err = true) : execRdbuf s = .next (respond 0 s) := gated_of_err _ he

theorem execRdbuf_success {s : State} (he : s.err = false) (hp : s.phase ≠ .idle) :
    execRdbuf s = .next (respond (s.bufcnt.setWidth 32) s) := by
  unfold execRdbuf
  rw [gated_of_no_err _ he, needsMessage_of_ne _ hp]
  rfl

theorem execRdbuf_idle {s : State} (he : s.err = false) (hp : s.phase = .idle) :
    execRdbuf s = .next (errored .notInit s) := by
  unfold execRdbuf
  rw [gated_of_no_err _ he, needsMessage_idle _ hp]

/-- RDBUF always ends in a next state. -/
theorem execRdbuf_cases (s : State) : ∃ t w, execRdbuf s = .next t ∧ ReadCases w s t := by
  by_cases he : s.err = true
  · exact ⟨_, 0, execRdbuf_of_err he, .inl ⟨he, rfl⟩⟩
  have he' : s.err = false := by simpa using he
  by_cases hp : s.phase = .idle
  · exact ⟨_, 0, execRdbuf_idle he' hp, .inr (.inl ⟨he', .notInit, by decide, rfl⟩)⟩
  · exact ⟨_, _, execRdbuf_success he' hp, .inr (.inr ⟨he', rfl⟩)⟩

end Sys2Proof.Machine
end

