-- ==== Sys2Proof/Laws/Exec.lean ====
section
/-! SUPPORT. exec arm by arm, what a command that ends in a next state can have done, and what accepting a request
does. -/

namespace Sys2Proof.Machine

@[simp] theorem exec_nop (s : State) : exec .nop s = execNop s := rfl
@[simp] theorem exec_init (s : State) : exec .init s = execInit s := rfl
@[simp] theorem exec_absorb (n : BitVec 3) (data : Word) (s : State) :
    exec (.absorb n data) s = execAbsorb n data s := rfl
@[simp] theorem exec_finalize (s : State) : exec .finalize s = execFinalize s := rfl
@[simp] theorem exec_rdstat (s : State) : exec .rdstat s = execRdstat s := rfl
@[simp] theorem exec_rddig (i : BitVec 3) (s : State) : exec (.rddig i) s = execRddig i s := rfl
@[simp] theorem exec_rdh (i : BitVec 3) (s : State) : exec (.rdh i) s = execRdh i s := rfl
@[simp] theorem exec_rdblk (half : BitVec 1) (s : State) : exec (.rdblk half) s = execRdblk half s := rfl
@[simp] theorem exec_rdbuf (s : State) : exec .rdbuf s = execRdbuf s := rfl

theorem execNop_eq (s : State) : execNop s = .next (respond 0 s) := rfl

theorem execInit_eq (s : State) : execInit s = .next (respond 0 (startMessage s)) := rfl

theorem execRdstat_eq (s : State) : execRdstat s = .next (respond s.status s) := rfl

/-- All a command can do when it ends in a next state: it is ignored, it raises an error, it only responds, or it is
INIT, ABSORB or FINALIZE and has its effect. -/
theorem exec_cases {i : Instr} {s t : State} (h : exec i s = .next t) :
    (s.err = true ∧ t = respond 0 s)
    ∨ (s.err = false ∧ ∃ c, c ≠ Cause.none ∧ t = errored c s)
    ∨ (∃ w, t = respond w s)
    ∨ (i = .init ∧ t = respond 0 (startMessage s))
    ∨ (s.err = false ∧ ∃ n d, i = .absorb n d ∧ n.toNat ≤ 4 ∧ s.phase = .active ∧ s.messageBytes + n.toNat < 2 ^ 61 ∧
        ∃ u, absorbBytes (dataBytes n d) s = .next u ∧ t = respond 0 u)
    ∨ (s.err = false ∧ i = .finalize ∧ s.phase = .active ∧ finishMessage s = .next t) := by
  have read : ∀ {r : Result}, (∃ t w, r = .next t ∧ ReadCases w s t) → r = .next t →
      (s.err = true ∧ t = respond 0 s) ∨ (s.err = false ∧ ∃ c, c ≠ Cause.none ∧ t = errored c s) ∨
        (∃ w, t = respond w s) := by
    rintro r ⟨t', w, h1, h2⟩ h
    cases h1.symm.trans h
    rcases h2 with h2 | h2 | h2
    · exact .inl h2
    · exact .inr (.inl h2)
    · exact .inr (.inr ⟨w, h2.2⟩)
  cases i with
  | nop => cases h; exact .inr (.inr (.inl ⟨0, rfl⟩))
  | init => cases h; exact .inr (.inr (.inr (.inl ⟨rfl, rfl⟩)))
  | rdstat => cases h; exact .inr (.inr (.inl ⟨s.status, rfl⟩))
  | absorb n d =>
    rcases execAbsorb_cases h with h | h | ⟨he, hn, hp, hl, hu⟩
    · exact .inl h
    · exact .inr (.inl h)
    · exact .inr (.inr (.inr (.inr (.inl ⟨he, n, d, rfl, hn, hp, hl, hu⟩))))
  | finalize =>
    rcases execFinalize_cases h with h | h | ⟨he, hp, hf⟩
    · exact .inl h
    · exact .inr (.inl h)
    · exact .inr (.inr (.inr (.inr (.inr ⟨he, rfl, hp, hf⟩))))
  | rddig k => exact (read (execRddig_cases k s) h).imp_right (.imp_right .inl)
  | rdh k => exact (read (execRdh_cases k s) h).imp_right (.imp_right .inl)
  | rdblk b => exact (read (execRdblk_cases b s) h).imp_right (.imp_right .inl)
  | rdbuf => exact (read (execRdbuf_cases s) h).imp_right (.imp_right .inl)

theorem transact_cons {s : State} {r : Request} {rest : List Request} (h : s.port = r :: rest) :
    transact s = accept r { s with port := rest } := by
  simp [transact, h]

theorem runCommand_ok {cmd data : Word} {i : Instr} (h : decode cmd data = .ok i) (s : State) :
    runCommand cmd data s = exec i s := by
  simp [runCommand, h]

theorem runCommand_error {cmd data : Word} {e : Reject} (h : decode cmd data = .error e) (s : State) :
    runCommand cmd data s = illegalCommand s := by
  simp [runCommand, h]

end Sys2Proof.Machine
end

