-- ==== Sys2Proof/Laws/PerInstr.lean ====
section
/-! SUPPORT. Statements about every instruction as syntax, one lemma per constructor. Family OpcodeRow: the command word
of a well-formed instruction is selected by its row's match and mask (30_encoding.md R75, spec/opcode_table.json). -/

namespace Sys2Proof.Laws.OpcodeRow

open Sys2Proof

/-- The mask of the instruction's row. -/
def rowMask : Instr → Word
  | .nop => 0xFFFFFFFF#32
  | .init => 0xFFFFFFFF#32
  | .absorb _ _ => 0xFFFFFFF8#32
  | .finalize => 0xFFFFFFFF#32
  | .rdstat => 0xFFFFFFFF#32
  | .rddig _ => 0xFFFFFFF8#32
  | .rdh _ => 0xFFFFFFF8#32
  | .rdblk _ => 0xFFFFFFFE#32
  | .rdbuf => 0xFFFFFFFF#32

/-- The match of the instruction's row. -/
def rowMatch : Instr → Word
  | .nop => 0x00000000#32
  | .init => 0x10000000#32
  | .absorb _ _ => 0x20000000#32
  | .finalize => 0x30000000#32
  | .rdstat => 0x40000000#32
  | .rddig _ => 0x50000000#32
  | .rdh _ => 0x60000000#32
  | .rdblk _ => 0x70000000#32
  | .rdbuf => 0x80000000#32

/-- The command word of a well-formed instruction, masked, is its row's match. -/
def Statement (i : Instr) : Prop := i.wf = true → (encode i).1 &&& rowMask i = rowMatch i

theorem nop : Statement .nop := by unfold Statement; decide

theorem init : Statement .init := by unfold Statement; decide

theorem absorb (n : BitVec 3) (data : Word) : Statement (.absorb n data) := by
  have key : ∀ n : BitVec 3, commandWord 0x2 (n.setWidth 32) &&& 0xFFFFFFF8#32 = 0x20000000#32 := by decide
  exact fun _ => key n

theorem finalize : Statement .finalize := by unfold Statement; decide

theorem rdstat : Statement .rdstat := by unfold Statement; decide

theorem rddig (i : BitVec 3) : Statement (.rddig i) := by
  have key : ∀ i : BitVec 3, commandWord 0x5 (i.setWidth 32) &&& 0xFFFFFFF8#32 = 0x50000000#32 := by decide
  exact fun _ => key i

theorem rdh (i : BitVec 3) : Statement (.rdh i) := by
  have key : ∀ i : BitVec 3, commandWord 0x6 (i.setWidth 32) &&& 0xFFFFFFF8#32 = 0x60000000#32 := by decide
  exact fun _ => key i

theorem rdblk (half : BitVec 1) : Statement (.rdblk half) := by
  have key : ∀ half : BitVec 1, commandWord 0x7 (half.setWidth 32) &&& 0xFFFFFFFE#32 = 0x70000000#32 := by decide
  exact fun _ => key half

theorem rdbuf : Statement .rdbuf := by unfold Statement; decide

end Sys2Proof.Laws.OpcodeRow
end

