-- ==== Sys2Proof/Tests/Slice0.lean ====
section
/-! SUPPORT. Small tests. Expected values come from the spec: the encodings of 30_encoding.md, the vectors V-* of
95_test_vectors.md and the examples of the command rules. The theorems test_witness_<statement> show states and operands
that meet the hypotheses of the statement they name. -/

namespace Sys2Proof.Tests

open Sys2Proof Sys2Proof.Machine Sys2Proof.Reference

/-! ### Helpers -/

/-- A field of the next state, if there is one. -/
def after {α : Type} (r : Result) (f : State → α) : Option α :=
  match r with
  | .next t => some (f t)
  | .fault _ => none
  | .refused _ => none

/-- Where a field of the next state has a value, there is a next state with it. -/
theorem after_some {α : Type} {r : Result} {f : State → α} {a : α} (h : after r f = some a) :
    ∃ t, r = .next t ∧ f t = a := by
  cases r with
  | next t => exact ⟨t, rfl, Option.some.inj h⟩
  | fault _ => cases h
  | refused _ => cases h

/-- A next state, if the outcome is one. -/
theorem after_next {r : Result} (h : (after r fun _ => ()) = some ()) : ∃ t, r = .next t :=
  let ⟨t, ht, _⟩ := after_some h
  ⟨t, ht⟩

/-- Cells holding the bytes `bs` from index `k` on. -/
def cellsAt : Nat → List Byte → List Host.Cell
  | _, [] => []
  | k, b :: bs => (k, b) :: cellsAt (k + 1) bs

/-- ACTIVE with `blocks` blocks counted and the bytes `bs` in BUF, H = IV. -/
def absorbing (blocks : Nat) (bs : List Byte) : State :=
  { State.reset with
    h := iv, phase := .active, blkcnt := BitVec.ofNat 55 blocks, bufcnt := BitVec.ofNat 7 bs.length
    buf := cellsAt 0 bs }

/-- n bytes of 0x61. -/
def as (n : Nat) : List Byte := List.replicate n 0x61#8

/-- CONSUMED with the "abc" digest. -/
def consumedAbc : State :=
  { State.reset with
    h := #v[0xA9993E36#32, 0x4706816A#32, 0xBA3E2571#32, 0x7850C26C#32, 0x9CD0D89D#32]
    digest := #v[0xa9, 0x99, 0x3e, 0x36, 0x47, 0x06, 0x81, 0x6a, 0xba, 0x3e, 0x25, 0x71, 0x78, 0x50, 0xc2, 0x6c,
      0x9c, 0xd0, 0xd8, 0x9d]
    phase := .consumed, dvalid := true, bufcnt := 3 }

/-- The state after an error in ACTIVE (STATUS 4 in CAUSE). -/
def failed : State := { absorbing 0 [] with err := true, cause := .doubleFinalize }

/-! ### Well-formedness: one ill-formed term for each check -/

theorem test_wf_absorb_n5 : (Instr.absorb 5 0).wf = false := by decide
theorem test_wf_rddig_i5 : (Instr.rddig 5).wf = false := by decide
theorem test_wf_rdh_i7 : (Instr.rdh 7).wf = false := by decide
theorem test_wf_absorb_n4 : (Instr.absorb 4 0xFFFFFFFF#32).wf = true := by decide

/-! ### Decoding: one word per constructor, written out bit by bit from R72 and R75, and the rejections of V-ERR-2 -/

theorem test_decode_nop : decode 0b00000000000000000000000000000000#32 0xFFFFFFFF#32 = .ok .nop := by decide
theorem test_decode_init : decode 0b00010000000000000000000000000000#32 0 = .ok .init := by decide
theorem test_decode_absorb :
    decode 0b00100000000000000000000000000011#32 0x61626300#32 = .ok (.absorb 3 0x61626300#32) := by decide
theorem test_decode_finalize : decode 0b00110000000000000000000000000000#32 0 = .ok .finalize := by decide
theorem test_decode_rdstat : decode 0b01000000000000000000000000000000#32 0 = .ok .rdstat := by decide
theorem test_decode_rddig : decode 0b01010000000000000000000000000100#32 0 = .ok (.rddig 4) := by decide
theorem test_decode_rdh : decode 0b01100000000000000000000000000001#32 0 = .ok (.rdh 1) := by decide
theorem test_decode_rdblk : decode 0b01110000000000000000000000000001#32 0 = .ok (.rdblk 1) := by decide
theorem test_decode_rdbuf : decode 0b10000000000000000000000000000000#32 0 = .ok .rdbuf := by decide

theorem test_reject_operands :
    decode 0x20000005#32 0 = .error .operandRange ∧ decode 0x50000005#32 0 = .error .operandRange
      ∧ decode 0x60000007#32 0 = .error .operandRange := by decide
theorem test_reject_reserved_bits :
    decode 0x20000008#32 0 = .error .reservedBits ∧ decode 0x70000002#32 0 = .error .reservedBits
      ∧ decode 0x10000100#32 0 = .error .reservedBits ∧ decode 0x80000010#32 0 = .error .reservedBits := by decide
theorem test_reject_reserved_op :
    decode 0x90000000#32 0 = .error .reservedOp ∧ decode 0xF0000000#32 0 = .error .reservedOp := by decide
theorem test_encode_words :
    (encode (.rdblk 1)).1 = 0x70000001#32 ∧ encode (.absorb 3 0x61626300#32) = (0x20000003#32, 0x61626300#32) := by
  decide
theorem test_table_word : decodeTableWord 32 0x20000004 = some (.absorb 4 0) := by decide

/-! ### Primitives (V-ROT, V-F, V-LOAD, V-EXP, V-ROUND-0, V-COMP) -/

theorem test_rotl : rotl 1 0x80000000#32 = 0x00000001#32 ∧ rotl 5 0x12345678#32 = 0x468ACF02#32
    ∧ rotl 30 0x12345678#32 = 0x048D159E#32 := by decide
theorem test_f_ch : fCh 0x0F0F0F0F#32 0x00FF00FF#32 0x33333333#32 = 0x303F303F#32 := by decide
theorem test_f_par : fPar 0xFFFFFFFF#32 0x12345678#32 0x9ABCDEF0#32 = 0x77777777#32 := by decide
theorem test_f_maj : fMaj 0x00000000#32 0x12345678#32 0x9ABCDEF0#32 = 0x12345670#32 := by decide
theorem test_round_constants : roundK 19 = 0x5A827999#32 ∧ roundK 20 = 0x6ED9EBA1#32 ∧ roundK 40 = 0x8F1BBCDC#32
    ∧ roundK 60 = 0xCA62C1D6#32 := by decide

/-- The padded "abc" block. -/
def abcBlock : Block := ((((Vector.replicate 64 (0 : Byte)).set 0 0x61).set 1 0x62).set 2 0x63 |>.set 3 0x80).set 63 0x18

theorem test_load_abc : (load abcBlock)[0] = 0x61626380#32 ∧ (load abcBlock)[15] = 0x00000018#32 := by decide +kernel
theorem test_expand_16 : (expand 16 (load abcBlock))[0] = 0xC2C4C700#32 := by decide +kernel
theorem test_round_0 : (turn 0 (startDatapath abcBlock iv)).a = 0x0116FC33#32
    ∧ (turn 0 (startDatapath abcBlock iv)).c = 0x7BF36AE2#32 := by decide +kernel
theorem test_schedule_79 : (advances 80 (startDatapath abcBlock iv)).w[15] = 0x822E0879#32 := by decide +kernel
theorem test_compress_zeros : compressH (Vector.replicate 64 0) iv =
    #v[0x92B404E5#32, 0x56588CED#32, 0x6C1ACD4E#32, 0xBF053F68#32, 0x09F73A93#32] := by decide +kernel
theorem test_compress_ones : compressH (Vector.replicate 64 0xFF) iv =
    #v[0xBAFBC2C8#32, 0x7C333226#32, 0x03F38E06#32, 0xC3E0F79C#32, 0x1F1B1475#32] := by decide +kernel

/-! ### Commands (V-INIT, V-ABS, V-FIN, V-RD, V-ERR) -/

theorem test_nop_with_err : exec .nop failed = .next { failed with rsp := some 0 } := rfl

theorem test_init_clears_error : after (exec .init failed) (fun t => (t.status, t.bufcnt)) = some (0x01#32, 0#7) := by
  decide

theorem test_absorb_across_block :
    after (exec (.absorb 4 0x11223344#32) (absorbing 0 (as 62)))
      (fun t => (t.blkcnt, t.bufcnt, t.buf)) = some (1#55, 2#7, [(0, 0x33#8), (1, 0x44#8)]) := by decide +kernel
theorem test_absorb_length_overflow :
    after (exec (.absorb 1 0) (absorbing (2 ^ 55 - 1) (as 63))) (fun t => (t.status, t.bufcnt, t.blkcnt)) =
      some (0x69#32, 63#7, BitVec.ofNat 55 (2 ^ 55 - 1)) := by decide +kernel

theorem test_finalize_abc :
    after (exec .finalize (absorbing 0 [0x61, 0x62, 0x63])) (fun t => (t.status, t.h, t.digest)) =
      some (0x06#32, consumedAbc.h, consumedAbc.digest) := by decide +kernel
theorem test_finalize_two_blocks :
    after (exec .finalize (absorbing 0 (as 56))) (fun t => t.h) =
      some #v[0xC2DB330F#32, 0x6083854C#32, 0x99D4B5BF#32, 0xB6E8F29F#32, 0x201BE699#32] := by decide +kernel

theorem test_rdstat_after_error : after (exec .rdstat failed) State.rsp = some (some 0x49#32) := by decide
theorem test_rddig_4 : after (exec (.rddig 4) consumedAbc) State.rsp = some (some 0x9CD0D89D#32) := by decide
theorem test_rddig_at_reset : after (exec (.rddig 0) State.reset) State.status = some 0x58#32 := by decide
theorem test_rdh_0 : after (exec (.rdh 0) (absorbing 0 [])) State.rsp = some (some 0x67452301#32) := by decide
theorem test_rdh_at_reset : after (exec (.rdh 0) State.reset) State.status = some 0x28#32 := by decide
theorem test_rdblk_halves :
    after (exec (.rdblk 0) (absorbing (2 ^ 55 - 1) [])) State.rsp = some (some 0xFFFFFFFF#32)
      ∧ after (exec (.rdblk 1) (absorbing (2 ^ 55 - 1) [])) State.rsp = some (some 0x007FFFFF#32) := by decide +kernel
theorem test_rdbuf : after (exec .rdbuf consumedAbc) State.rsp = some (some 0x3#32) := by decide

theorem test_priority_decode_first :
    after (step (State.reset.withFetchWord 32 0x20000007)) State.status = some 0x18#32 := by decide
theorem test_gate_ignores_near_init :
    step (failed.withFetchWord 32 0x10000001) = .next { failed with rsp := some 0 } := by rfl
theorem test_reset_pin : after (step { failed with port := [.reset] }) State.status = some 0x00#32 := by decide

/-! ### Witnesses: the hypotheses of each statement can be met -/

theorem test_witness_EncodedCommandDecodesBack : (Instr.absorb 4 0x61626364#32).wf = true ∧ (Instr.rdh 0).wf = true := by
  decide

theorem test_witness_DecodedWordEncodesBack : decode 0x20000004#32 7#32 = .ok (.absorb 4 7#32) := by decide

theorem test_witness_StepRunsDecodedCommand :
    (State.reset.withFetchWord 32 0x60000004).port = .command 0x60000004#32 0#32 :: [] ∧
      decode 0x60000004#32 0#32 = .ok (.rdh 4) := by decide

theorem test_witness_IdleStepKeepsState : State.reset.port = [] := by decide

theorem test_witness_IllegalWordRaisesIllegalCmd :
    (State.reset.withFetchWord 32 0x90000000).port = .command 0x90000000#32 0#32 :: []
      ∧ IllegalBits 0x90000000#32 ∧ IllegalBits 0x00000001#32 ∧ IllegalBits 0x20000005#32 ∧ IllegalBits 0x50000008#32
      ∧ IllegalBits 0x70000002#32 := by
  unfold IllegalBits; decide

theorem test_witness_ErrGateIgnoresCommands :
    (failed.withFetchWord 32 0x10000001).port = .command 0x10000001#32 0#32 :: [] ∧ failed.err = true
      ∧ 0x10000001#32 ∉ [0x00000000#32, 0x10000000#32, 0x40000000#32] := by decide

theorem test_witness_IgnoredDataNeverMatters :
    (∀ k, k < (0x20000001#32 &&& 7#32).toNat →
      (0x61FFFFFF#32).extractLsb' (24 - 8 * k) 8 = (0x61000000#32).extractLsb' (24 - 8 * k) 8)
      ∧ 0x30000000#32 >>> 28 ≠ 2#32 := by decide

theorem test_witness_ResetClearsStatus :
    ({ failed with port := [.reset] } : State).port = .reset :: []
      ∧ ({ failed with port := [.commandReset 0x30000000#32 0#32] } : State).port =
          .commandReset 0x30000000#32 0#32 :: [] := by decide

theorem test_witness_NopOnlyResponds : 0x00000001#32 >>> 28 = 0#32 ∧ 0x00000001#32 ≠ 0#32 := by decide

theorem test_witness_InitStartsMessage :
    Instr.rdbuf ≠ .init ∧ failed.err = true ∧ ∃ t, exec .rdbuf failed = .next t :=
  ⟨by decide, rfl, after_next (by decide +kernel)⟩

theorem test_witness_UnspecifiedBytesHoldNoValue :
    (∃ t, exec .init failed = .next t) ∧ ∃ t, exec .finalize (absorbing 0 []) = .next t ∧ t.err = false :=
  ⟨after_next (by decide +kernel), after_some (f := State.err) (by decide +kernel)⟩

/-- N = 0 in an empty block, the last byte that does not fill the block, and the last byte under the length limit. -/
theorem test_witness_AbsorbWithinBlock :
    ((absorbing 0 []).err = false ∧ (absorbing 0 []).phase = .active ∧ (0 : BitVec 3).toNat ≤ 4
      ∧ (absorbing 0 []).blkcnt.toNat * 64 + (absorbing 0 []).bufcnt.toNat + (0 : BitVec 3).toNat < 2 ^ 61
      ∧ (absorbing 0 []).bufcnt.toNat + (0 : BitVec 3).toNat < 64)
    ∧ ((absorbing 0 (as 59)).bufcnt.toNat + (4 : BitVec 3).toNat < 64)
    ∧ ((absorbing (2 ^ 55 - 1) (as 62)).blkcnt.toNat * 64 + (absorbing (2 ^ 55 - 1) (as 62)).bufcnt.toNat
        + (1 : BitVec 3).toNat < 2 ^ 61) := by decide +kernel

theorem test_witness_AbsorbFillsBlock :
    ((absorbing 0 (as 60)).err = false ∧ (absorbing 0 (as 60)).phase = .active ∧ (4 : BitVec 3).toNat ≤ 4
      ∧ (absorbing 0 (as 60)).blkcnt.toNat * 64 + (absorbing 0 (as 60)).bufcnt.toNat + (4 : BitVec 3).toNat < 2 ^ 61
      ∧ (absorbing 0 (as 60)).bufcnt.toNat ≤ 63 ∧ 64 ≤ (absorbing 0 (as 60)).bufcnt.toNat + (4 : BitVec 3).toNat
      ∧ cellReads (absorbing 0 (as 60)).buf 0 (absorbing 0 (as 60)).bufcnt.toNat = some (as 60))
    ∧ cellReads (absorbing 0 (as 63)).buf 0 (absorbing 0 (as 63)).bufcnt.toNat = some (as 63) := by decide +kernel

theorem test_witness_AbsorbSplitsIntoSingleBytes :
    1 ≤ (2 : BitVec 3).toNat ∧ ∃ t, exec (.absorb 2 0x61620000#32) (absorbing 0 []) = .next t ∧ t.err = false :=
  ⟨by decide, after_some (f := State.err) (by decide +kernel)⟩

theorem test_witness_PartitionsAgree :
    bytesOf [(3, 0x61626300#32)] = bytesOf [(1, 0x61FFFFFF#32), (0, 0xDEADBEEF#32), (2, 0x62630000#32)]
      ∧ (∃ t, execAll (absorbAll [(3, 0x61626300#32)]) (absorbing 0 []) = .next t ∧ t.err = false)
      ∧ ∃ u, execAll (absorbAll [(1, 0x61FFFFFF#32), (0, 0xDEADBEEF#32), (2, 0x62630000#32)]) (absorbing 0 []) =
          .next u ∧ u.err = false :=
  ⟨by decide, after_some (f := State.err) (by decide +kernel), after_some (f := State.err) (by decide +kernel)⟩

theorem test_witness_ChunkInvariantState :
    (∀ c ∈ [((4 : BitVec 3), 0x61626364#32), (0, 0#32)], c.1.toNat ≤ 4)
      ∧ (bytesOf [(4, 0x61626364#32), (0, 0#32)]).length < 2 ^ 61 := by
  have hlen : (bytesOf [(4, 0x61626364#32), (0, 0#32)]).length = 4 := by decide
  refine ⟨fun c hc => ?_, by omega⟩
  simp only [List.mem_cons, List.not_mem_nil, or_false] at hc
  rcases hc with rfl | rfl <;> decide

/-- The boundaries of the two padding paths: c = 0, 55, 56, 63. -/
theorem test_witness_FinalizePadsAndSerializes :
    (absorbing 0 []).err = false ∧ (absorbing 0 []).phase = .active ∧ (absorbing 0 []).bufcnt.toNat ≤ 63
      ∧ cellReads (absorbing 0 []).buf 0 (absorbing 0 []).bufcnt.toNat = some []
      ∧ cellReads (absorbing 0 (as 55)).buf 0 (absorbing 0 (as 55)).bufcnt.toNat = some (as 55)
      ∧ cellReads (absorbing 0 (as 56)).buf 0 (absorbing 0 (as 56)).bufcnt.toNat = some (as 56)
      ∧ (absorbing 0 (as 63)).bufcnt.toNat ≤ 63
      ∧ cellReads (absorbing 0 (as 63)).buf 0 (absorbing 0 (as 63)).bufcnt.toNat = some (as 63) := by decide +kernel

/-- V-FIN-3: BLKCNT = 2^55 - 1, BUFCNT = 62. -/
theorem test_witness_LengthIsExact :
    (absorbing (2 ^ 55 - 1) (as 62)).bufcnt.toNat ≤ 63
      ∧ (absorbing (2 ^ 55 - 1) (as 62)).lengthBits = 0xFFFFFFFFFFFFFFF0#64 := by decide +kernel

theorem test_witness_LengthFieldWords :
    (List.replicate 56 (0 : Byte)).length = 56
      ∧ ((Vector.replicate 64 (0 : Byte)).set 62 2).toList = List.replicate 56 (0 : Byte) ++ be64 0x200#64 := by
  decide +kernel

theorem test_witness_DigestOfWholeMessage : ([0x61#8, 0x62#8, 0x63#8] : List Byte).length < 2 ^ 61 := by decide

theorem test_witness_RddigReadsDigestWord :
    (0 : BitVec 3).toNat ≤ 4 ∧ (4 : BitVec 3).toNat ≤ 4 ∧ consumedAbc.err = false ∧ consumedAbc.dvalid = true := by decide

theorem test_witness_RdhReadsAccumulatorWord :
    (4 : BitVec 3).toNat ≤ 4 ∧ consumedAbc.err = false ∧ consumedAbc.phase ≠ .idle
      ∧ (absorbing 0 []).err = false ∧ (absorbing 0 []).phase ≠ .idle := by decide

theorem test_witness_RdblkReadsCounterHalf :
    (absorbing (2 ^ 55 - 1) []).err = false ∧ (absorbing (2 ^ 55 - 1) []).phase ≠ .idle
      ∧ (0 : BitVec 1) = 0 ∧ (1 : BitVec 1) = 1 := by decide

theorem test_witness_RdbufReadsByteCount : consumedAbc.err = false ∧ consumedAbc.phase ≠ .idle := by decide

/-- A read that succeeds and one that fails. -/
theorem test_witness_ReadsAreFreeOfSideEffects :
    isRead (.rddig 0) = true ∧ (∃ t, exec (.rddig 0) consumedAbc = .next t ∧ t.err = consumedAbc.err)
      ∧ ∃ t, exec (.rddig 0) State.reset = .next t ∧ t.err ≠ State.reset.err :=
  ⟨rfl, ⟨_, rfl, rfl⟩, ⟨_, rfl, by decide⟩⟩

theorem consumedAbc_inv : consumedAbc.Inv where
  bufcnt_le := by decide
  length_le := by decide
  err_iff_cause := by decide
  phase_ne_three := by decide
  idle_not_valid := by decide
  digest_of_h := by decide
  valid_iff_consumed := by decide
  buf_wf := by decide
  buf_valid := fun h => by cases h

theorem test_witness_RdhEqualsRddigAfterFinalize :
    consumedAbc.Inv ∧ consumedAbc.phase = .consumed ∧ consumedAbc.err = false ∧ (4 : BitVec 3).toNat ≤ 4 :=
  ⟨consumedAbc_inv, by decide⟩

/-- Every row of the error table, at the boundaries of its conditions, and commands without an error. -/
theorem test_witness_ErrorsOfCommands :
    State.reset.err = false
      ∧ errorOf (.absorb 5 0) State.reset = some .illegalCmd ∧ errorOf (.absorb 4 0) State.reset = some .notInit
      ∧ errorOf (.absorb 0 0) consumedAbc = some .absorbAfterFinal
      ∧ errorOf (.absorb 1 0) (absorbing (2 ^ 55 - 1) (as 63)) = some .lengthOverflow
      ∧ errorOf (.absorb 0 0) (absorbing (2 ^ 55 - 1) (as 63)) = none
      ∧ errorOf .finalize State.reset = some .notInit ∧ errorOf .finalize consumedAbc = some .doubleFinalize
      ∧ errorOf (.rddig 5) State.reset = some .illegalCmd ∧ errorOf (.rddig 4) State.reset = some .digestNotValid
      ∧ errorOf (.rdh 4) State.reset = some .notInit ∧ errorOf (.rdblk 1) State.reset = some .notInit
      ∧ errorOf .rdbuf State.reset = some .notInit ∧ errorOf .rdbuf consumedAbc = none := by decide +kernel

theorem test_witness_ErrorsOfCommands_none : ∃ t, exec .rdbuf consumedAbc = .next t := ⟨_, rfl⟩

theorem test_witness_ErrorEntryIsPrecise :
    ∃ t, step (State.reset.withFetchWord 32 0x30000000) = .next t
      ∧ faults (State.reset.withFetchWord 32 0x30000000) t = true :=
  ⟨_, rfl, rfl⟩

/-- A step that keeps the error, and the two that clear it. -/
theorem test_witness_OnlyInitAndResetClearErr :
    failed.err = true ∧ (∃ t, step (failed.withFetchWord 32 0x30000000) = .next t ∧ t.err = true)
      ∧ (∃ t, step (failed.withFetchWord 32 0x10000000) = .next t ∧ t.err = false)
      ∧ ∃ t, step { failed with port := [.reset] } = .next t ∧ t.err = false :=
  ⟨rfl, ⟨_, rfl, rfl⟩, ⟨_, rfl, rfl⟩, ⟨_, rfl, rfl⟩⟩

theorem test_witness_OnlyInitAndResetClearErr_requests :
    clearsError (.command 0x10000000#32 7#32) = true ∧ clearsError .reset = true
      ∧ clearsError (.commandReset 0x30000000#32 0#32) = true ∧ clearsError (.command 0x30000000#32 0#32) = false := by
  decide

theorem test_witness_ErrZeroProvesSuccess :
    Instr.init ∉ [Instr.rdbuf] ++ [Instr.rdstat]
      ∧ ∃ t, execAll ([Instr.rdbuf] ++ [Instr.rdstat]) consumedAbc = .next t ∧ t.err = false :=
  ⟨by decide, _, rfl, rfl⟩

theorem test_witness_CommandsWriteOnlyTheirState :
    (∃ t, exec .nop State.reset = .next t) ∧ (∃ t, exec .rdstat State.reset = .next t)
      ∧ (∃ t, exec (.absorb 1 0) (absorbing 0 []) = .next t) ∧ ∃ t, exec .finalize (absorbing 0 []) = .next t :=
  ⟨after_next (by decide +kernel), after_next (by decide +kernel), after_next (by decide +kernel),
    after_next (by decide +kernel)⟩

/-- The three moves of PHASE. -/
theorem test_witness_PhaseMovesOnlyByItsWriters :
    (∃ t, step { consumedAbc with port := [.reset] } = .next t ∧ t.phase = .idle)
      ∧ (∃ t, step (State.reset.withFetchWord 32 0x10000000) = .next t ∧ t.phase = .active)
      ∧ ∃ t, step ((absorbing 0 []).withFetchWord 32 0x30000000) = .next t ∧ t.phase = .consumed :=
  ⟨after_some (by decide +kernel), after_some (by decide +kernel), after_some (by decide +kernel)⟩

/-- A state that absorbs, with three bytes buffered and a command at the port, has the invariants. -/
theorem absorbing_inv : ((absorbing 0 (as 3)).withFetchWord 32 0x20000004).Inv where
  bufcnt_le := by decide
  length_le := by decide
  err_iff_cause := by decide
  phase_ne_three := by decide
  idle_not_valid := by decide
  digest_of_h := by intro h; cases h
  valid_iff_consumed := by decide
  buf_wf := by decide
  buf_valid := by
    intro _ k
    show (cellRead [(0, 0x61#8), (1, 0x61#8), (2, 0x61#8)] k).isSome = decide (k < 3)
    match k with
    | 0 => rfl
    | 1 => rfl
    | 2 => rfl
    | k + 3 => simp [cellRead]

theorem test_witness_StepKeepsInvariants :
    ((absorbing 0 (as 3)).withFetchWord 32 0x20000004).Inv
      ∧ ∃ t, step ((absorbing 0 (as 3)).withFetchWord 32 0x20000004) = .next t :=
  ⟨absorbing_inv, after_next (by decide +kernel)⟩

theorem test_witness_ResponseOfEveryCommand :
    (∃ t, exec (.rdh 1) consumedAbc = .next t)
      ∧ (State.reset.withFetchWord 32 0xF0000000).port = .command 0xF0000000#32 0#32 :: []
      ∧ IllegalBits 0xF0000000#32
      ∧ (∃ t, step (State.reset.withFetchWord 32 0xF0000000) = .next t)
      ∧ ((absorbing 0 (as 3)).withFetchWord 32 0x20000004).Inv
      ∧ ((absorbing 0 (as 3)).withFetchWord 32 0x20000004).port = .command 0x20000004#32 0#32 :: [] :=
  ⟨after_next (by decide +kernel), by decide, .inl (by decide), after_next (by decide +kernel), absorbing_inv,
    by decide⟩

/-- A fault, the two refusals, and a state with the invariants. -/
theorem test_witness_ThreeOutcomesOfCommands :
    (State.reset.err = false ∧ errorOf .finalize State.reset = some .notInit)
      ∧ contractOutcome State.reset (exec .finalize State.reset) = .fault (.callerContract .notInit)
      ∧ contractOutcome { absorbing 0 [] with bufcnt := 1 } (exec .finalize { absorbing 0 [] with bufcnt := 1 }) =
          .refused .bufUnwritten
      ∧ contractOutcome { absorbing 0 [] with bufcnt := 64 } (exec (.absorb 1 0) { absorbing 0 [] with bufcnt := 64 }) =
          .refused .bufcntOutOfRange
      ∧ ((absorbing 0 (as 3)).withFetchWord 32 0x20000004).Inv :=
  ⟨by decide, rfl, rfl, rfl, absorbing_inv⟩

theorem test_witness_StepNeverStops : ((absorbing 0 (as 3)).withFetchWord 32 0x20000004).Inv := absorbing_inv

/-- Two states in IDLE that differ in H, BUFCNT and RC hold the same specified state. -/
theorem test_witness_UnspecifiedStateNeverSeen :
    SameSpecified State.reset { State.reset with h := iv, bufcnt := 5, dp := { Datapath.reset with rc := 80 } }
      ∧ ∃ t, step State.reset = .next t :=
  ⟨{ phase_eq := rfl, dvalid_eq := rfl, err_eq := rfl, cause_eq := rfl, port_eq := rfl, rsp_eq := rfl
     h_eq := fun h => absurd rfl h, blkcnt_eq := fun _ => rfl, bufcnt_eq := fun h => absurd rfl h
     buf_eq := fun _ => rfl, digest_eq := fun _ => rfl }, _, rfl⟩

theorem test_witness_RotateLeftMovesBits : 0 < 30 ∧ 30 < 32 ∧ 31 < 32 := by decide

theorem test_witness_ExpandWritesOneSlot : 16 ≤ 16 ∧ 16 ≤ 79 ∧ 79 ≤ 79 := by decide

theorem test_witness_RoundRotatesVariables : 0 < 80 ∧ 79 < 80 := by decide

theorem test_witness_WindowHoldsSchedule :
    (0 ≤ 80 ∧ 15 < max 16 0 ∧ max 16 0 ≤ 15 + 16) ∧ (80 ≤ 80 ∧ 64 < max 16 80 ∧ max 16 80 ≤ 64 + 16) := by decide

/-- The start of a compression: H in the registers, in the roles of round 0. -/
theorem test_witness_InPlaceRoundsAgree :
    0 < 80 ∧ 79 < 80 ∧ 80 ≤ 80 ∧ InRoles 0 iv (startDatapath (Vector.replicate 64 0) iv) :=
  ⟨by decide, by decide, by decide, rfl, rfl, rfl, rfl, rfl⟩

end Sys2Proof.Tests
end

section
/-! Proofs about rotation (00_scope.md R10): the model's `rotl` is the library's left rotation, and where it moves each
bit. -/

namespace Sys2Proof.Proofs

open Sys2Proof Sys2Proof.Machine

/-- The amounts R10 allows are below the width, so the library's reduction of the amount modulo 32 does nothing. -/
theorem rotl_eq_rotateLeft {n : Nat} (x : Word) (hn : n < 32) : rotl n x = x.rotateLeft n := by
  rw [rotl, BitVec.rotateLeft_def, Nat.mod_eq_of_lt hn]

/-- A bit below `n` comes round from the top of the word; any other comes from `n` places below. -/
theorem getLsbD_rotl {n i : Nat} (x : Word) (hn : n < 32) (hi : i < 32) :
    (rotl n x).getLsbD i = x.getLsbD ((i + 32 - n) % 32) := by
  rw [rotl_eq_rotateLeft x hn, BitVec.getLsbD_rotateLeft_of_le hn]
  by_cases hwrap : i < n
  · have hsource : (i + 32 - n) % 32 = 32 - n + i := by omega
    simp [hwrap, hsource]
  · have hsource : (i + 32 - n) % 32 = i - n := by omega
    simp [hwrap, hi, hsource]

/-- Settles O42: the formula is the definition of `rotl`, the bits are `getLsbD_rotl`. -/
theorem rotateLeftMovesBits : Obligations.RotateLeftMovesBits := by
  intro n x i _ hn hi
  exact ⟨rfl, getLsbD_rotl x hn hi⟩

end Sys2Proof.Proofs
end

section
/-! Proofs about reads (20_memory.md R56): a read looks at no earlier response, and either only responds or raises an
error. -/

namespace Sys2Proof.Proofs

open Sys2Proof Sys2Proof.Machine Sys2Proof.Reference

/-- Every arm of a read tests and answers fields other than rsp, and each of its ends overwrites rsp: the two sides
unfold to the same outcome. -/
theorem exec_respond_of_isRead {i : Instr} (hread : isRead i = true) (w : Word) (s : State) :
    exec i (respond w s) = exec i s := by
  cases i with
  | nop => cases hread
  | init => cases hread
  | absorb n d => cases hread
  | finalize => cases hread
  | rdstat => rfl
  | rddig k => rfl
  | rdh k => rfl
  | rdblk half => rfl
  | rdbuf => rfl

/-- `exec_cases` for a read: being ignored is a response too, and the effects of INIT, ABSORB and FINALIZE are not
those of a read. -/
theorem exec_cases_of_isRead {i : Instr} {s t : State} (hread : isRead i = true) (hexec : exec i s = .next t) :
    (∃ w, t = respond w s) ∨ (s.err = false ∧ ∃ c, t = errored c s) := by
  rcases exec_cases hexec with
    ⟨-, hignored⟩ | ⟨herr, c, -, herrored⟩ | hresponds | ⟨rfl, -⟩ | ⟨-, n, d, rfl, -⟩ | ⟨-, rfl, -⟩
  · exact .inl ⟨0, hignored⟩
  · exact .inr ⟨herr, c, herrored⟩
  · exact .inl hresponds
  · cases hread
  · cases hread
  · cases hread

/-- Settles O29: a read that leaves ERR alone only responded, so `exec_respond_of_isRead` repeats it; one that changes
ERR is an error entry. -/
theorem readsAreFreeOfSideEffects : Obligations.ReadsAreFreeOfSideEffects := by
  intro i s t hread hexec
  rcases exec_cases_of_isRead hread hexec with ⟨w, rfl⟩ | ⟨herr, c, rfl⟩
  · have hagain : exec i (respond w s) = .next (respond w s) := (exec_respond_of_isRead hread w s).trans hexec
    exact ⟨fun _ => ⟨rfl, hagain⟩, fun hchanged => absurd (respond_err w s) hchanged⟩
  · have hraised : (errored c s).err ≠ s.err := by simp [herr]
    exact ⟨fun hkept => absurd hkept hraised, fun _ => rfl⟩

end Sys2Proof.Proofs
end

section
/-! Proofs about decoding (30_encoding.md R76, R77, R79): what each format accepts, that a word which decodes is the
encoding of what it decodes to, and where the data word goes. -/

namespace Sys2Proof.Proofs

open Sys2Proof Sys2Proof.Machine Sys2Proof.Reference

/-! ### The fields of a command word -/

theorem toNat_opField (cmd : Word) : (opField cmd).toNat = (cmd >>> 28).toNat := by
  simp only [opField, BitVec.extractLsb'_toNat, BitVec.toNat_ushiftRight, Nat.shiftRight_eq_div_pow]
  omega

theorem toNat_operandField (cmd : Word) : (operandField cmd).toNat = (cmd &&& 7#32).toNat := by
  rw [operandField, BitVec.extractLsb'_toNat, BitVec.toNat_and]
  exact (Nat.and_two_pow_sub_one_eq_mod cmd.toNat 3).symm

/-- In every format (Z has an operand of no bits) a word whose reserved bits are zero is OP over its operand. -/
theorem commandWord_fields {cmd : Word} (width : Nat) (hwidth : width ≤ 28)
    (hreserved : cmd.extractLsb' width (28 - width) = 0) :
    commandWord (opField cmd) ((cmd.extractLsb' 0 width).setWidth 32) = cmd := by
  apply BitVec.eq_of_getLsbD_eq
  intro i hi
  have hzero : width ≤ i → i < 28 → cmd.getLsbD i = false := by
    intro hlo hhi
    have hbit := congrArg (·.getLsbD (i - width)) hreserved
    simpa [BitVec.getLsbD_extractLsb', show i - width < 28 - width by omega, Nat.add_sub_cancel' hlo] using hbit
  simp only [commandWord, opField, BitVec.getLsbD_or, BitVec.getLsbD_shiftLeft, BitVec.getLsbD_setWidth,
    BitVec.getLsbD_extractLsb', Nat.zero_add, hi, decide_true, Bool.true_and]
  rcases Nat.lt_or_ge i 28 with hlow | hop
  · by_cases hoperand : i < width
    · simp [hlow, hoperand]
    · simp [hlow, hoperand, hzero (by omega) hlow]
  · simp [Nat.not_lt.mpr hop, show i - 28 < 32 by omega, show i - 28 < 4 by omega, show ¬ i < width by omega,
      Nat.add_sub_cancel' hop]

/-- The same with OP as the number the decoder matches on. -/
theorem commandWord_of_op {cmd : Word} {op : Nat} (hop : (opField cmd).toNat = op) (width : Nat) (hwidth : width ≤ 28)
    (hreserved : cmd.extractLsb' width (28 - width) = 0) :
    commandWord (BitVec.ofNat 4 op) ((cmd.extractLsb' 0 width).setWidth 32) = cmd := by
  rw [← hop, BitVec.ofNat_toNat, BitVec.setWidth_eq]
  exact commandWord_fields width hwidth hreserved

/-! ### What each format accepts -/

theorem decodeZ_ok {cmd : Word} {op : Nat} {i j : Instr} (hop : (opField cmd).toNat = op)
    (hok : decodeZ cmd i = .ok j) : i = j ∧ commandWord (BitVec.ofNat 4 op) 0 = cmd := by
  unfold decodeZ at hok
  split at hok
  · next hreserved =>
    have hword := commandWord_of_op hop 0 (by decide) hreserved
    rw [BitVec.eq_nil (cmd.extractLsb' 0 0)] at hword
    exact ⟨Except.ok.inj hok, hword⟩
  · cases hok

theorem decodeOperand_ok {cmd : Word} {op : Nat} {mk : BitVec 3 → Instr} {j : Instr}
    (hop : (opField cmd).toNat = op) (hok : decodeOperand cmd mk = .ok j) :
    mk (operandField cmd) = j ∧ operandLegal (operandField cmd) = true ∧
      commandWord (BitVec.ofNat 4 op) ((operandField cmd).setWidth 32) = cmd := by
  unfold decodeOperand at hok
  split at hok
  · next hreserved =>
    split at hok
    · next hlegal => exact ⟨Except.ok.inj hok, hlegal, commandWord_of_op hop 3 (by decide) hreserved⟩
    · cases hok
  · cases hok

theorem decodeHF_ok {cmd : Word} {op : Nat} {mk : BitVec 1 → Instr} {j : Instr} (hop : (opField cmd).toNat = op)
    (hok : decodeHF cmd mk = .ok j) :
    mk (halfField cmd) = j ∧ commandWord (BitVec.ofNat 4 op) ((halfField cmd).setWidth 32) = cmd := by
  unfold decodeHF at hok
  split at hok
  · next hreserved => exact ⟨Except.ok.inj hok, commandWord_of_op hop 1 (by decide) hreserved⟩
  · cases hok

/-- A word that decodes is the encoding of a well-formed instruction, and an ABSORB carries the data word. -/
theorem encode_of_decode_ok {cmd data : Word} {i : Instr} (hok : decode cmd data = .ok i) :
    i.wf = true ∧ (encode i).1 = cmd ∧ ∀ n d, i = .absorb n d → d = data := by
  unfold decode at hok
  split at hok
  · next hop => obtain ⟨rfl, hword⟩ := decodeZ_ok hop hok; exact ⟨rfl, hword, nofun⟩
  · next hop => obtain ⟨rfl, hword⟩ := decodeZ_ok hop hok; exact ⟨rfl, hword, nofun⟩
  · next hop =>
    obtain ⟨rfl, hlegal, hword⟩ := decodeOperand_ok hop hok
    exact ⟨hlegal, hword, fun _ _ heq => (Instr.absorb.inj heq).2.symm⟩
  · next hop => obtain ⟨rfl, hword⟩ := decodeZ_ok hop hok; exact ⟨rfl, hword, nofun⟩
  · next hop => obtain ⟨rfl, hword⟩ := decodeZ_ok hop hok; exact ⟨rfl, hword, nofun⟩
  · next hop => obtain ⟨rfl, hlegal, hword⟩ := decodeOperand_ok hop hok; exact ⟨hlegal, hword, nofun⟩
  · next hop => obtain ⟨rfl, hlegal, hword⟩ := decodeOperand_ok hop hok; exact ⟨hlegal, hword, nofun⟩
  · next hop => obtain ⟨rfl, hword⟩ := decodeHF_ok hop hok; exact ⟨rfl, hword, nofun⟩
  · next hop => obtain ⟨rfl, hword⟩ := decodeZ_ok hop hok; exact ⟨rfl, hword, nofun⟩
  · cases hok

/-! ### The opcode map -/

theorem operandLegal_cases {v : BitVec 3} (hlegal : operandLegal v = true) : v = 0 ∨ v = 1 ∨ v = 2 ∨ v = 3 ∨ v = 4 := by
  revert v
  decide

/-- Every well-formed instruction has its row in the opcode map. -/
theorem encode_mem_opcodeMap {i : Instr} {data : Word} (hwf : i.wf = true)
    (hdata : ∀ n d, i = .absorb n d → d = data) : ((encode i).1, i) ∈ opcodeMap data := by
  cases i
  case absorb n d =>
    obtain rfl := hdata n d rfl
    rcases operandLegal_cases hwf with rfl | rfl | rfl | rfl | rfl <;> simp [opcodeMap, encode, commandWord]
  case rddig k =>
    rcases operandLegal_cases hwf with rfl | rfl | rfl | rfl | rfl <;> simp [opcodeMap, encode, commandWord]
  case rdh k =>
    rcases operandLegal_cases hwf with rfl | rfl | rfl | rfl | rfl <;> simp [opcodeMap, encode, commandWord]
  case rdblk half =>
    rcases BitVec.eq_zero_or_eq_one half with rfl | rfl <;> simp [opcodeMap, encode, commandWord]
  all_goals simp [opcodeMap, encode, commandWord]

/-- Each row of the opcode map decodes as it says: the decoder evaluates on the 22 words, the data word left open. -/
theorem decode_opcodeMap (data : Word) : ∀ row ∈ opcodeMap data, decode row.1 data = .ok row.2 := by
  simp only [opcodeMap, List.forall_mem_cons, List.not_mem_nil, false_imp_iff, implies_true, and_true]
  and_intros <;> rfl

/-- Settles O2: what decodes is the encoding of a well-formed instruction, and those are the rows of the map. -/
theorem legalWordsDecode : Obligations.LegalWordsDecode := by
  intro cmd data i
  constructor
  · intro hok
    obtain ⟨hwf, rfl, hdata⟩ := encode_of_decode_ok hok
    exact encode_mem_opcodeMap hwf hdata
  · exact decode_opcodeMap data (cmd, i)

/-! ### Illegal words -/

/-- No word of the opcode map is in R77's list of illegal words: each is tested against every clause. -/
theorem opcodeMap_not_illegalBits (data : Word) : ∀ row ∈ opcodeMap data, ¬ IllegalBits row.1 := by
  simp [opcodeMap, IllegalBits]

theorem decode_error_of_illegalBits {cmd : Word} (hbits : IllegalBits cmd) (data : Word) :
    ∃ e, decode cmd data = .error e := by
  cases hdecode : decode cmd data with
  | ok i => exact absurd hbits (opcodeMap_not_illegalBits data (cmd, i) ((legalWordsDecode cmd data i).mp hdecode))
  | error e => exact ⟨e, rfl⟩

/-! ### The data word -/

/-- Where OP is not 2 the decoder does not look at the data word. -/
theorem decode_data_irrelevant {cmd : Word} (hop : (opField cmd).toNat ≠ 2) (d1 d2 : Word) :
    decode cmd d1 = decode cmd d2 := by
  unfold decode
  split
  case h_3 hop2 => exact absurd hop2 hop
  all_goals rfl

theorem decode_absorb {cmd : Word} (hop : (opField cmd).toNat = 2) (data : Word) :
    decode cmd data = decodeOperand cmd fun n => .absorb n data := by
  simp [decode, hop]

/-- ABSORB reads the data word in its first N bytes only. -/
theorem dataBytes_congr {n : BitVec 3} {d1 d2 : Word}
    (hagree : ∀ k, k < n.toNat → d1.extractLsb' (24 - 8 * k) 8 = d2.extractLsb' (24 - 8 * k) 8) :
    dataBytes n d1 = dataBytes n d2 := by
  have hbytes (data : Word) : dataBytes n data = (List.range (min n.toNat 4)).map (wordByte data) := by
    rw [← List.take_range, List.map_take]
    rfl
  rw [hbytes, hbytes]
  apply List.map_congr_left
  intro k hk
  exact hagree k (by have := List.mem_range.mp hk; omega)

theorem execAbsorb_congr {n : BitVec 3} {d1 d2 : Word} (hbytes : dataBytes n d1 = dataBytes n d2) (s : State) :
    execAbsorb n d1 s = execAbsorb n d2 s := by
  simp only [execAbsorb, hbytes]

/-- A word with OP = 2 runs the same with two data words whose first N bytes agree, decoding or not. -/
theorem runCommand_absorb_congr {cmd d1 d2 : Word} (hop : (opField cmd).toNat = 2)
    (hbytes : dataBytes (operandField cmd) d1 = dataBytes (operandField cmd) d2) (s : State) :
    runCommand cmd d1 s = runCommand cmd d2 s := by
  simp only [runCommand, decode_absorb hop, decodeOperand]
  by_cases hreserved : cmd.extractLsb' 3 25 = 0#25
  · by_cases hlegal : operandLegal (operandField cmd) = true
    · simpa [hreserved, hlegal] using execAbsorb_congr hbytes s
    · simp [hreserved, hlegal]
  · simp [hreserved]

/-- Settles O10: under OP = 2 by the bytes ABSORB takes, under every other OP by the decoder alone. -/
theorem ignoredDataNeverMatters : Obligations.IgnoredDataNeverMatters := by
  intro s cmd d1 d2 rest hagree
  change runCommand cmd d1 { s with port := rest } = runCommand cmd d2 { s with port := rest }
  by_cases hop : cmd >>> 28 = 2#32
  · refine runCommand_absorb_congr (by rw [toNat_opField, hop]; rfl) (dataBytes_congr ?_) _
    rw [toNat_operandField]
    exact hagree hop
  · have hother : (opField cmd).toNat ≠ 2 := fun hop2 =>
      hop (BitVec.eq_of_toNat_eq ((toNat_opField cmd).symm.trans hop2))
    simp only [runCommand, decode_data_irrelevant hother d1 d2]

end Sys2Proof.Proofs
end

section
/-! Proofs about progress (70_reset_and_hazards.md R242): where BUF holds the bytes it counts, absorbing bytes and
finishing the message end in a next state, and so does every command. -/

namespace Sys2Proof.Proofs

open Sys2Proof Sys2Proof.Machine

/-- BUFCNT is the count of a command boundary, and BUF holds a value exactly below it: what `State.Inv` says of BUF in
ACTIVE. -/
def BufHoldsCount (s : State) : Prop :=
  s.bufcnt.toNat ≤ 63 ∧ ∀ k, (cellRead s.buf k).isSome = decide (k < s.bufcnt.toNat)

theorem bufHoldsCount_of_inv {s : State} (hinv : s.Inv) (hphase : s.phase = .active) : BufHoldsCount s :=
  ⟨hinv.bufcnt_le, hinv.buf_valid hphase⟩

theorem bufHoldsCount_startBlock (s : State) : BufHoldsCount (startBlock s) :=
  ⟨Nat.zero_le 63, fun k => by simp [startBlock]⟩

/-- A byte that lands holds the next place of BUF. -/
theorem landByte_isSome {b : Byte} {s : State} (hbuf : BufHoldsCount s) (k : Nat) :
    (cellRead (landByte b s).buf k).isSome = decide (k < s.bufcnt.toNat + 1) := by
  rw [landByte, cellRead_cellWrite]
  split
  · next hplace => simp [hplace]
  · next hplace => rw [hbuf.2 k, decide_eq_decide]; omega

/-- ABSORB_BYTE always ends in a next state: below 63 the byte lands, and at 63 all of BUF holds values to flush. -/
theorem absorbByte_progress {b : Byte} {s : State} (hbuf : BufHoldsCount s) :
    ∃ t, absorbByte b s = .next t ∧ BufHoldsCount t := by
  rcases Nat.lt_or_eq_of_le hbuf.1 with hlt | heq
  · have hcount : (landByte b s).bufcnt.toNat = s.bufcnt.toNat + 1 := landByte_bufcnt (by omega)
    refine ⟨landByte b s, absorbByte_of_lt hlt, by omega, fun k => ?_⟩
    rw [landByte_isSome hbuf, hcount]
  · obtain ⟨bytes, hbytes⟩ := cellReads_isSome (landByte b s).buf 0 64 fun j hj => by
      rw [landByte_isSome hbuf]
      exact decide_eq_true (by omega)
    obtain ⟨blk, rfl⟩ := exists_block (cellReads_length hbytes)
    exact ⟨_, (absorbByte_of_eq heq).trans (flush_eq_next.mpr ⟨blk, hbytes, rfl⟩), bufHoldsCount_startBlock _⟩

theorem absorbBytes_progress (bs : List Byte) {s : State} (hbuf : BufHoldsCount s) :
    ∃ t, absorbBytes bs s = .next t ∧ BufHoldsCount t := by
  induction bs generalizing s with
  | nil => exact ⟨s, rfl, hbuf⟩
  | cons b bs ih =>
    obtain ⟨u, hbyte, hbuf⟩ := absorbByte_progress (b := b) hbuf
    obtain ⟨t, hbytes, hbuf⟩ := ih hbuf
    exact ⟨t, andThen_eq_next.mpr ⟨u, hbyte, hbytes⟩, hbuf⟩

theorem padAndCompress_progress (len : BitVec 64) {m : List Byte} (hlength : m.length ≤ 63) (s : State) :
    ∃ t, padAndCompress len m s = .next t := by
  by_cases hone : m.length ≤ 55
  · obtain ⟨blk, -, hblk⟩ := padAndCompress_one (len := len) s hone
    exact ⟨_, hblk⟩
  · obtain ⟨p1, p2, -, -, hblks⟩ := padAndCompress_two (len := len) s (by omega) hlength
    exact ⟨_, hblks⟩

theorem finishMessage_progress {s : State} (hbuf : BufHoldsCount s) : ∃ t, finishMessage s = .next t := by
  obtain ⟨hcount, hcells⟩ := hbuf
  obtain ⟨m, hm⟩ := cellReads_isSome s.buf 0 s.bufcnt.toNat fun j hj => by simpa using hcells j ▸ decide_eq_true hj
  obtain ⟨u, hu⟩ := padAndCompress_progress s.lengthBits (cellReads_length hm ▸ hcount) s
  exact ⟨_, finishMessage_eq_next.mpr ⟨by omega, m, u, hm, hu, rfl⟩⟩

end Sys2Proof.Proofs
end

section
/-! Proofs about the response (30_encoding.md R74): every command is ignored, raises the error that the table of errors
gives it, or goes on to its effect; in each of these the response is known. -/

namespace Sys2Proof.Proofs

open Sys2Proof Sys2Proof.Machine Sys2Proof.Reference

/-- While ERR = 1 every command that is not exempt is ignored (R215). -/
theorem exec_of_gated {i : Instr} {s : State} (herr : s.err = true) (hexempt : exempt i = false) :
    exec i s = .next (respond 0 s) := by
  cases i with
  | nop => cases hexempt
  | init => cases hexempt
  | absorb n d => exact gated_of_err _ herr
  | finalize => exact gated_of_err _ herr
  | rdstat => cases hexempt
  | rddig k => exact gated_of_err _ herr
  | rdh k => exact gated_of_err _ herr
  | rdblk half => exact gated_of_err _ herr
  | rdbuf => exact gated_of_err _ herr

/-! ### Commands to which the table of errors gives a cause -/

theorem execAbsorb_of_errorOf {n : BitVec 3} {data : Word} {s : State} {c : Cause} (herr : s.err = false)
    (hcause : errorOf (.absorb n data) s = some c) : execAbsorb n data s = .next (errored c s) := by
  rw [execAbsorb, gated_of_no_err _ herr]
  simp only [errorOf] at hcause
  split at hcause
  · next hn => cases hcause; exact checkOperand_of_gt _ _ hn
  next hn =>
  rw [checkOperand_of_le _ _ (Nat.not_lt.mp hn)]
  split at hcause
  · next hp => cases hcause; exact absorbPhase_idle _ hp
  next hidle =>
  split at hcause
  · next hp => cases hcause; exact absorbPhase_consumed _ hp
  next hconsumed =>
  rw [absorbPhase_active _ (by cases hp : s.phase <;> simp_all)]
  split at hcause
  · next hlength => cases hcause; exact checkLength_over _ hlength
  · cases hcause

theorem execFinalize_of_errorOf {s : State} {c : Cause} (herr : s.err = false)
    (hcause : errorOf .finalize s = some c) : execFinalize s = .next (errored c s) := by
  rw [execFinalize, gated_of_no_err _ herr]
  simp only [errorOf] at hcause
  split at hcause
  · next hp => cases hcause; exact finalizePhase_idle _ hp
  split at hcause
  · next hp => cases hcause; exact finalizePhase_consumed _ hp
  · cases hcause

theorem execRddig_of_errorOf {i : BitVec 3} {s : State} {c : Cause} (herr : s.err = false)
    (hcause : errorOf (.rddig i) s = some c) : execRddig i s = .next (errored c s) := by
  rw [execRddig, gated_of_no_err _ herr]
  simp only [errorOf] at hcause
  split at hcause
  · next hi => cases hcause; exact checkOperand_of_gt _ _ hi
  next hi =>
  rw [checkOperand_of_le _ _ (Nat.not_lt.mp hi)]
  split at hcause
  · next hvalid => cases hcause; exact needsDigest_of_not _ hvalid
  · cases hcause

theorem execRdh_of_errorOf {i : BitVec 3} {s : State} {c : Cause} (herr : s.err = false)
    (hcause : errorOf (.rdh i) s = some c) : execRdh i s = .next (errored c s) := by
  rw [execRdh, gated_of_no_err _ herr]
  simp only [errorOf] at hcause
  split at hcause
  · next hi => cases hcause; exact checkOperand_of_gt _ _ hi
  next hi =>
  rw [checkOperand_of_le _ _ (Nat.not_lt.mp hi)]
  split at hcause
  · next hp => cases hcause; exact needsMessage_idle _ hp
  · cases hcause

theorem execRdblk_of_errorOf {half : BitVec 1} {s : State} {c : Cause} (herr : s.err = false)
    (hcause : errorOf (.rdblk half) s = some c) : execRdblk half s = .next (errored c s) := by
  simp only [errorOf] at hcause
  split at hcause
  · next hp => cases hcause; exact execRdblk_idle herr hp
  · cases hcause

theorem execRdbuf_of_errorOf {s : State} {c : Cause} (herr : s.err = false)
    (hcause : errorOf .rdbuf s = some c) : execRdbuf s = .next (errored c s) := by
  simp only [errorOf] at hcause
  split at hcause
  · next hp => cases hcause; exact execRdbuf_idle herr hp
  · cases hcause

/-- With ERR = 0 a command raises the error that the table gives it (R210, R216). -/
theorem exec_of_errorOf {i : Instr} {s : State} {c : Cause} (herr : s.err = false) (hcause : errorOf i s = some c) :
    exec i s = .next (errored c s) := by
  cases i with
  | nop => cases hcause
  | init => cases hcause
  | absorb n d => exact execAbsorb_of_errorOf herr hcause
  | finalize => exact execFinalize_of_errorOf herr hcause
  | rdstat => cases hcause
  | rddig k => exact execRddig_of_errorOf herr hcause
  | rdh k => exact execRdh_of_errorOf herr hcause
  | rdblk half => exact execRdblk_of_errorOf herr hcause
  | rdbuf => exact execRdbuf_of_errorOf herr hcause

/-! ### Commands to which it gives none -/

theorem errorOf_of_exempt {i : Instr} (hexempt : exempt i = true) (s : State) : errorOf i s = none := by
  cases i <;> simp_all [exempt, errorOf]

theorem errorOf_absorb_eq_none {n : BitVec 3} {data : Word} {s : State} (hnone : errorOf (.absorb n data) s = none) :
    n.toNat ≤ 4 ∧ s.phase = .active ∧ s.messageBytes + n.toNat < 2 ^ 61 := by
  cases hp : s.phase <;> simp_all [errorOf, State.messageBytes, ite_eq_iff]

theorem errorOf_finalize_eq_none {s : State} (hnone : errorOf .finalize s = none) : s.phase = .active := by
  cases hp : s.phase <;> simp_all [errorOf]

theorem errorOf_rddig_eq_none {i : BitVec 3} {s : State} (hnone : errorOf (.rddig i) s = none) :
    i.toNat ≤ 4 ∧ s.dvalid = true := by
  simpa [errorOf, ite_eq_iff] using hnone

theorem errorOf_rdh_eq_none {i : BitVec 3} {s : State} (hnone : errorOf (.rdh i) s = none) :
    i.toNat ≤ 4 ∧ s.phase ≠ .idle := by
  simpa [errorOf, ite_eq_iff] using hnone

theorem errorOf_rdblk_eq_none {half : BitVec 1} {s : State} (hnone : errorOf (.rdblk half) s = none) :
    s.phase ≠ .idle := by
  simpa [errorOf] using hnone

theorem errorOf_rdbuf_eq_none {s : State} (hnone : errorOf .rdbuf s = none) : s.phase ≠ .idle := by
  simpa [errorOf] using hnone

/-! ### The values of the reads -/

theorem valueOf_rddig {i : BitVec 3} (s : State) (hi : i.toNat ≤ 4) :
    valueOf (.rddig i) s = wordBE (s.digest[4 * i.toNat]'(by omega)) (s.digest[4 * i.toNat + 1]'(by omega))
      (s.digest[4 * i.toNat + 2]'(by omega)) (s.digest[4 * i.toNat + 3]'(by omega)) := by
  rw [wordBE_eq_append, valueOf, getElem?_pos s.digest (4 * i.toNat) (by omega),
    getElem?_pos s.digest (4 * i.toNat + 1) (by omega), getElem?_pos s.digest (4 * i.toNat + 2) (by omega),
    getElem?_pos s.digest (4 * i.toNat + 3) (by omega)]
  rfl

theorem valueOf_rdh {i : BitVec 3} (s : State) (hi : i.toNat ≤ 4) :
    valueOf (.rdh i) s = s.h[i.toNat]'(by omega) := by
  rw [valueOf, getElem?_pos s.h i.toNat (by omega)]
  rfl

theorem valueOf_rdblk (half : BitVec 1) (s : State) : valueOf (.rdblk half) s = blkcntHalf half s.blkcnt := by
  have hcount := s.blkcnt.isLt
  simp only [valueOf, blkcntHalf]
  split
  · apply BitVec.eq_of_toNat_eq
    simp
  · apply BitVec.eq_of_toNat_eq
    simp [Nat.shiftRight_eq_div_pow]
    omega

theorem valueOf_rdbuf (s : State) : valueOf .rdbuf s = s.bufcnt.setWidth 32 :=
  BitVec.ofNat_toNat 32 s.bufcnt

/-- ABSORB answers 0 however it ends. -/
theorem execAbsorb_rsp {n : BitVec 3} {data : Word} {s t : State} (hexec : execAbsorb n data s = .next t) :
    t.rsp = some 0 := by
  rcases execAbsorb_cases hexec with ⟨-, rfl⟩ | ⟨-, c, -, rfl⟩ | ⟨-, -, -, -, u, -, rfl⟩ <;> rfl

/-- FINALIZE answers 0 however it ends. -/
theorem execFinalize_rsp {s t : State} (hexec : execFinalize s = .next t) : t.rsp = some 0 := by
  rcases execFinalize_cases hexec with ⟨-, rfl⟩ | ⟨-, c, -, rfl⟩ | ⟨-, -, hfinish⟩
  · rfl
  · rfl
  · obtain ⟨-, m, u, -, -, rfl⟩ := finishMessage_eq_next.mp hfinish
    rfl

/-- A command that is neither ignored nor an error answers its value (R74). -/
theorem exec_rsp_of_valueOf {i : Instr} {s t : State} (hlive : s.err = false ∨ exempt i = true)
    (hnone : errorOf i s = none) (hexec : exec i s = .next t) : t.rsp = some (valueOf i s) := by
  have herr (hgated : exempt i = false) : s.err = false := hlive.resolve_right (by simp [hgated])
  cases i with
  | nop => cases hexec; rfl
  | init => cases hexec; rfl
  | absorb n d => exact execAbsorb_rsp hexec
  | finalize => exact execFinalize_rsp hexec
  | rdstat => cases hexec; rfl
  | rddig k =>
    obtain ⟨hk, hvalid⟩ := errorOf_rddig_eq_none hnone
    cases (execRddig_success (herr rfl) hk hvalid).symm.trans hexec
    rw [valueOf_rddig s hk, respond_rsp]
  | rdh k =>
    obtain ⟨hk, hphase⟩ := errorOf_rdh_eq_none hnone
    cases (execRdh_success (herr rfl) hk hphase).symm.trans hexec
    rw [valueOf_rdh s hk, respond_rsp]
  | rdblk half =>
    cases (execRdblk_success (herr rfl) (errorOf_rdblk_eq_none hnone)).symm.trans hexec
    rw [valueOf_rdblk, respond_rsp]
  | rdbuf =>
    cases (execRdbuf_success (herr rfl) (errorOf_rdbuf_eq_none hnone)).symm.trans hexec
    rw [valueOf_rdbuf, respond_rsp]

/-- The first clause of R74: the three ways a command can go, in the order of the gate and the table. -/
theorem exec_rsp {i : Instr} {s t : State} (hexec : exec i s = .next t) :
    t.rsp = some (if s.err = true ∧ exempt i = false then 0 else if errorOf i s ≠ none then 0 else valueOf i s) := by
  by_cases hgated : s.err = true ∧ exempt i = false
  · cases (exec_of_gated hgated.1 hgated.2).symm.trans hexec
    rw [if_pos hgated, respond_rsp]
  rw [if_neg hgated]
  have hlive : s.err = false ∨ exempt i = true := by simpa [Decidable.imp_iff_not_or] using hgated
  cases hcause : errorOf i s with
  | none => simpa using exec_rsp_of_valueOf hlive hcause hexec
  | some c =>
    have herr : s.err = false := hlive.resolve_right fun hexempt => by
      simp [errorOf_of_exempt hexempt s] at hcause
    cases (exec_of_errorOf herr hcause).symm.trans hexec
    simp

/-! ### No command goes unanswered -/

theorem execAbsorb_progress (n : BitVec 3) (data : Word) {s : State} (hbuf : s.phase = .active → BufHoldsCount s) :
    ∃ t, execAbsorb n data s = .next t := by
  cases herr : s.err with
  | true => exact ⟨_, gated_of_err _ herr⟩
  | false =>
    cases hcause : errorOf (.absorb n data) s with
    | some c => exact ⟨_, execAbsorb_of_errorOf herr hcause⟩
    | none =>
      obtain ⟨hn, hphase, hlength⟩ := errorOf_absorb_eq_none hcause
      obtain ⟨u, hu, -⟩ := absorbBytes_progress (dataBytes n data) (hbuf hphase)
      exact ⟨respond 0 u, by rw [execAbsorb_success herr hn hphase hlength, hu]; rfl⟩

theorem execFinalize_progress {s : State} (hbuf : s.phase = .active → BufHoldsCount s) :
    ∃ t, execFinalize s = .next t := by
  cases herr : s.err with
  | true => exact ⟨_, gated_of_err _ herr⟩
  | false =>
    cases hcause : errorOf .finalize s with
    | some c => exact ⟨_, execFinalize_of_errorOf herr hcause⟩
    | none =>
      have hphase := errorOf_finalize_eq_none hcause
      rw [execFinalize_success herr hphase]
      exact finishMessage_progress (hbuf hphase)

/-- Where BUF holds the bytes it counts, every command ends in a next state. -/
theorem exec_progress (i : Instr) {s : State} (hbuf : s.phase = .active → BufHoldsCount s) :
    ∃ t, exec i s = .next t := by
  cases i with
  | nop => exact ⟨_, rfl⟩
  | init => exact ⟨_, rfl⟩
  | absorb n data => exact execAbsorb_progress n data hbuf
  | finalize => exact execFinalize_progress hbuf
  | rdstat => exact ⟨_, rfl⟩
  | rddig k => obtain ⟨t, w, hread, -⟩ := execRddig_cases k s; exact ⟨t, hread⟩
  | rdh k => obtain ⟨t, w, hread, -⟩ := execRdh_cases k s; exact ⟨t, hread⟩
  | rdblk half => obtain ⟨t, w, hread, -⟩ := execRdblk_cases half s; exact ⟨t, hread⟩
  | rdbuf => obtain ⟨t, w, hread, -⟩ := execRdbuf_cases s; exact ⟨t, hread⟩

theorem illegalCommand_answers (s : State) : ∃ t, illegalCommand s = .next t ∧ t.rsp = some 0 := by
  cases herr : s.err with
  | true => exact ⟨_, gated_of_err _ herr, rfl⟩
  | false => exact ⟨_, gated_of_no_err _ herr, rfl⟩

/-- A command that ends in a next state leaves a response, decoding or not. -/
theorem runCommand_rsp {cmd data : Word} {s t : State} (hrun : runCommand cmd data s = .next t) : t.rsp ≠ none := by
  cases hdecode : decode cmd data with
  | ok i =>
    rw [runCommand_ok hdecode] at hrun
    simp [exec_rsp hrun]
  | error e =>
    rw [runCommand_error hdecode] at hrun
    obtain ⟨u, hu, hrsp⟩ := illegalCommand_answers s
    cases hu.symm.trans hrun
    simp [hrsp]

theorem runCommand_progress (cmd data : Word) {s : State} (hbuf : s.phase = .active → BufHoldsCount s) :
    ∃ t, runCommand cmd data s = .next t := by
  cases hdecode : decode cmd data with
  | ok i => rw [runCommand_ok hdecode]; exact exec_progress i hbuf
  | error e =>
    rw [runCommand_error hdecode]
    obtain ⟨t, ht, -⟩ := illegalCommand_answers s
    exact ⟨t, ht⟩

/-- A step with a command at the port runs it. -/
theorem step_command {s : State} {cmd data : Word} {rest : List Request} (hport : s.port = .command cmd data :: rest) :
    step s = runCommand cmd data { s with port := rest } :=
  transact_cons hport

/-- Settles O37: the clauses are `exec_rsp`, the answer to a word that does not decode, `runCommand_rsp`, and progress
under the invariants of BUF. -/
theorem responseOfEveryCommand : Obligations.ResponseOfEveryCommand := by
  refine ⟨fun i s t => exec_rsp, ?_, ?_, ?_⟩
  · intro s cmd data rest hport hbits
    obtain ⟨e, hdecode⟩ := decode_error_of_illegalBits hbits data
    rw [step_command hport, runCommand_error hdecode]
    exact illegalCommand_answers _
  · intro s t cmd data rest hport hstep
    exact runCommand_rsp (step_command hport ▸ hstep)
  · intro s cmd data rest hinv hport
    have hbuf : s.phase = .active → BufHoldsCount s := bufHoldsCount_of_inv hinv
    obtain ⟨t, hrun⟩ := runCommand_progress cmd data (s := { s with port := rest }) hbuf
    exact ⟨t, (step_command hport).trans hrun, runCommand_rsp hrun⟩

end Sys2Proof.Proofs
end

section
/-! Proofs about NOP and INIT (40_init.md R100, R101): their command words, the state INIT leaves, and that no other
command leads out of the error state. -/

namespace Sys2Proof.Proofs

open Sys2Proof Sys2Proof.Machine Sys2Proof.Reference

/-! ### NOP -/

/-- The only legal word with OP = 0 is that of NOP: the other rows of the opcode map have another OP. -/
theorem opcodeMap_eq_zero_of_op (data : Word) : ∀ row ∈ opcodeMap data, row.1 >>> 28 = 0 → row.1 = 0 := by
  simp [opcodeMap]

/-- Settles O12: the effect is `execNop_eq`, and a word with OP = 0 that decoded would be NOP's row of the map. -/
theorem nopOnlyResponds : Obligations.NopOnlyResponds := by
  refine ⟨execNop_eq, fun data => ?_, fun cmd data hop hne => ?_⟩
  · exact decode_opcodeMap data (0x00000000#32, .nop) (by simp [opcodeMap])
  · cases hdecode : decode cmd data with
    | ok i =>
      have hrow : (cmd, i) ∈ opcodeMap data := (legalWordsDecode cmd data i).mp hdecode
      exact absurd (opcodeMap_eq_zero_of_op data (cmd, i) hrow hop) hne
    | error e => exact ⟨e, rfl⟩

/-! ### INIT -/

/-- STATUS reads 1 after INIT: PHASE is ACTIVE and every other field is zero, whatever the state before. -/
theorem status_startMessage (s : State) : (startMessage s).status = 1 := by
  simp [State.status, Cause.code, Phase.code]

theorem status_respond (w : Word) (s : State) : (respond w s).status = s.status := rfl

/-- A second INIT changes nothing: what INIT writes does not depend on the state, and it keeps the rest. -/
theorem execInit_idempotent (s : State) :
    execInit (respond 0 (startMessage s)) = .next (respond 0 (startMessage s)) := rfl

/-- With ERR = 1 a command other than INIT is ignored or only responds (`exec_cases`); the other effects need
ERR = 0. -/
theorem exec_keeps_err {i : Instr} {s t : State} (hinit : i ≠ .init) (hexec : exec i s = .next t)
    (herr : s.err = true) : t.err = true := by
  have hnot : s.err ≠ false := by simp [herr]
  rcases exec_cases hexec with ⟨-, rfl⟩ | ⟨hclear, -⟩ | ⟨w, rfl⟩ | ⟨heq, -⟩ | ⟨hclear, -⟩ | ⟨hclear, -⟩
  · exact herr
  · exact absurd hclear hnot
  · exact herr
  · exact absurd heq hinit
  · exact absurd hclear hnot
  · exact absurd hclear hnot

/-- Settles O13: the witness is the state of `execInit_eq`, its fields are those of `startMessage` after a response, and
the last clause is `exec_keeps_err`. -/
theorem initStartsMessage : Obligations.InitStartsMessage := by
  refine ⟨fun data => ?_, fun s => ?_, fun i s t => exec_keeps_err⟩
  · exact decode_opcodeMap data (0x10000000#32, .init) (by simp [opcodeMap])
  · have hstatus : (respond 0 (startMessage s)).status = 1 := (status_respond 0 _).trans (status_startMessage s)
    exact ⟨respond 0 (startMessage s), execInit_eq s, startMessage_h s, startMessage_blkcnt s, startMessage_bufcnt s,
      startMessage_phase s, startMessage_dvalid s, startMessage_err s, startMessage_cause s, respond_rsp 0 _, hstatus,
      startMessage_digest s, startMessage_dp s, startMessage_port s, startMessage_freeCount s, execInit_idempotent s⟩

end Sys2Proof.Proofs
end

section
/-! Proofs about the compressor's parts (41_compressor.md sections 1 to 4): LOAD as big-endian words, EXPAND in terms of
the earlier slots, and ROUND with the functions and constants by stage. -/

namespace Sys2Proof.Proofs

open Sys2Proof Sys2Proof.Machine Sys2Proof.Reference

/-! ### LOAD -/

/-- Slot j of the window LOAD leaves is word j of the block (R110). -/
theorem load_getElem (blk : Block) (j : Fin 16) : (load blk)[j] = loadWord blk j := by
  have hload : load blk = Vector.ofFn (loadWord blk) := rfl
  rw [hload, Fin.getElem_fin, Vector.getElem_ofFn]

/-- Settles O43: slot j holds `loadWord`, and WORD_BE is concatenation (`wordBE_eq_append`). -/
theorem loadIsBigEndian : Obligations.LoadIsBigEndian := by
  intro blk j
  rw [load_getElem, loadWord, wordBE_eq_append]

/-! ### EXPAND -/

/-- Going forward by `16 - k` reaches the slot that lies `k` before: the window is circular (R111, R112). -/
theorem slot_add_eq_sub {t m k : Nat} (hwindow : m + k = 16) (hback : k ≤ t) : slot (t + m) = slot (t - k) := by
  have hturn : t + m = t - k + 16 := by omega
  rw [hturn, slot, slot, Fin.mk.injEq, Nat.add_mod_right]

/-- Settles O44: the one write of `expand_getElem`, with the slots read named by the rounds they come from. -/
theorem expandWritesOneSlot : Obligations.ExpandWritesOneSlot := by
  intro t w j hfirst _
  have h3 : slot (t + 13) = slot (t - 3) := slot_add_eq_sub rfl (by omega)
  have h8 : slot (t + 8) = slot (t - 8) := slot_add_eq_sub rfl (by omega)
  have h14 : slot (t + 2) = slot (t - 14) := slot_add_eq_sub rfl (by omega)
  have hexpand := expand_getElem t w j.val j.isLt
  simp only [h3, h8, h14, rotl_eq_rotateLeft _ (show 1 < 32 by decide)] at hexpand
  exact hexpand

/-! ### ROUND -/

/-- F_CH takes y where x is 1 and z where x is 0 (R114, R124). -/
theorem fCh_eq_and_or_not_and (x y z : Word) : fCh x y z = (x &&& y) ||| (~~~x &&& z) := by
  apply BitVec.eq_of_getLsbD_eq
  intro i hi
  simp only [fCh, BitVec.getLsbD_xor, BitVec.getLsbD_and, BitVec.getLsbD_or, BitVec.getLsbD_not, hi, decide_true,
    Bool.true_and]
  cases x.getLsbD i with
  | true => simp [Bool.xor_left_comm (z.getLsbD i)]
  | false => simp

/-- F_MAJ is 1 where two of its three words are (R116, R124). -/
theorem fMaj_eq_or_pairs (x y z : Word) : fMaj x y z = (x &&& y) ||| (x &&& z) ||| (y &&& z) := by
  rw [fMaj, BitVec.and_comm z, BitVec.and_or_distrib_right, BitVec.or_assoc]

/-- The bounds that pick f_t and K_t are those of the stages t / 20 = 0, 1, 2 and later (R117, R118, R119). -/
theorem stage_cases (t : Nat) :
    (t / 20 = 0 ∧ t < 20) ∨ (t / 20 = 1 ∧ ¬ t < 20 ∧ t < 40) ∨ (t / 20 = 2 ∧ ¬ t < 20 ∧ ¬ t < 40 ∧ t < 60) ∨
      (∃ n, t / 20 = n + 3 ∧ ¬ t < 20 ∧ ¬ t < 40 ∧ ¬ t < 60) := by
  by_cases h20 : t < 20
  · exact .inl (by omega)
  by_cases h40 : t < 40
  · exact .inr (.inl (by omega))
  by_cases h60 : t < 60
  · exact .inr (.inr (.inl (by omega)))
  · exact .inr (.inr (.inr ⟨t / 20 - 3, by omega⟩))

/-- Stages 0 and 2 differ in form only (R124); stages 1 and 3 are the same formula. -/
theorem roundF_eq_stageF (t : Nat) (x y z : Word) : roundF t x y z = stageF t x y z := by
  rcases stage_cases t with ⟨hstage, h20⟩ | ⟨hstage, h20, h40⟩ | ⟨hstage, h20, h40, h60⟩ | ⟨n, hstage, h20, h40, h60⟩
  · simp [roundF, stageF, hstage, h20, fCh_eq_and_or_not_and]
  · simp [roundF, stageF, hstage, h20, h40, fPar]
  · simp [roundF, stageF, hstage, h20, h40, h60, fMaj_eq_or_pairs]
  · simp [roundF, stageF, hstage, h20, h40, h60, fPar]

/-- The constants are the same in each stage (R118, R119). -/
theorem roundK_eq_stageK (t : Nat) : roundK t = stageK t := by
  rcases stage_cases t with ⟨hstage, h20⟩ | ⟨hstage, h20, h40⟩ | ⟨hstage, h20, h40, h60⟩ | ⟨n, hstage, h20, h40, h60⟩
  · simp [roundK, stageK, hstage, h20]
  · simp [roundK, stageK, hstage, h20, h40]
  · simp [roundK, stageK, hstage, h20, h40, h60]
  · simp [roundK, stageK, hstage, h20, h40, h60]

/-- T of ROUND(t) in the terms of the stages (R120). -/
theorem roundSum_eq_stage (t : Nat) (p : Datapath) :
    roundSum t p = p.a.rotateLeft 5 + stageF t p.b p.c p.d + p.e + stageK t + p.w[slot t] := by
  rw [roundSum, rotl_eq_rotateLeft _ (by decide), roundF_eq_stageF, roundK_eq_stageK]

/-- Settles O46: `roundStep` moves the variables, and its sum is `roundSum_eq_stage`. -/
theorem roundRotatesVariables : Obligations.RoundRotatesVariables := by
  intro t p _
  rw [roundStep, roundSum_eq_stage, rotl_eq_rotateLeft _ (by decide)]
  rfl

end Sys2Proof.Proofs
end

section
/-! Proofs about ABSORB (42_absorb.md R150, R151, R152): what a run of bytes does when it only lands in BUF, and when
its last byte completes the block. -/

namespace Sys2Proof.Proofs

open Sys2Proof Sys2Proof.Machine

/-! ### The next block -/

@[simp] theorem startBlock_h (s : State) : (startBlock s).h = s.h := rfl
@[simp] theorem startBlock_blkcnt (s : State) : (startBlock s).blkcnt = s.blkcnt + 1 := rfl
@[simp] theorem startBlock_buf (s : State) : (startBlock s).buf = [] := rfl
@[simp] theorem startBlock_bufcnt_toNat (s : State) : (startBlock s).bufcnt.toNat = 0 := rfl

/-- BLKCNT counts one block without wrapping below the length limit (R151). -/
theorem blkcnt_succ {c : BitVec 55} (hlimit : c.toNat + 1 < 2 ^ 55) : (c + 1).toNat = c.toNat + 1 := by
  rw [BitVec.toNat_add]
  exact Nat.mod_eq_of_lt hlimit

/-! ### Bytes that only land -/

/-- The bytes `bs` land in BUF one after another, with no flush. -/
def landBytes (bs : List Byte) (s : State) : State := bs.foldl (fun s b => landByte b s) s

theorem landBytes_cons (b : Byte) (bs : List Byte) (s : State) :
    landBytes (b :: bs) s = landBytes bs (landByte b s) := rfl

theorem landBytes_concat (bs : List Byte) (b : Byte) (s : State) :
    landBytes (bs ++ [b]) s = landByte b (landBytes bs s) := by
  simp [landBytes]

theorem landBytes_frame (bs : List Byte) (s : State) :
    landBytes bs s = { s with buf := (landBytes bs s).buf, bufcnt := (landBytes bs s).bufcnt } := by
  induction bs generalizing s with
  | nil => rfl
  | cons b bs ih => exact ih (landByte b s)

@[simp] theorem landBytes_h (bs : List Byte) (s : State) : (landBytes bs s).h = s.h := by
  rw [landBytes_frame]

@[simp] theorem landBytes_blkcnt (bs : List Byte) (s : State) : (landBytes bs s).blkcnt = s.blkcnt := by
  rw [landBytes_frame]

theorem landBytes_bufcnt {bs : List Byte} {s : State} (hfit : s.bufcnt.toNat + bs.length ≤ 64) :
    (landBytes bs s).bufcnt.toNat = s.bufcnt.toNat + bs.length := by
  induction bs generalizing s with
  | nil => rfl
  | cons b bs ih =>
    rw [List.length_cons] at hfit
    have hcount : (landByte b s).bufcnt.toNat = s.bufcnt.toNat + 1 := landByte_bufcnt (by omega)
    rw [landBytes_cons, ih (by omega), hcount, List.length_cons]
    omega

/-- The bytes stand at BUF[BUFCNT..] in order, and every other byte of BUF reads as before. -/
theorem cellRead_landBytes {bs : List Byte} {s : State} (hfit : s.bufcnt.toNat + bs.length ≤ 64) (k : Nat) :
    cellRead (landBytes bs s).buf k =
      if s.bufcnt.toNat ≤ k ∧ k < s.bufcnt.toNat + bs.length then bs[k - s.bufcnt.toNat]?
      else cellRead s.buf k := by
  induction bs generalizing s with
  | nil => rw [if_neg (by simp)]; rfl
  | cons b bs ih =>
    rw [List.length_cons] at hfit
    have hcount : (landByte b s).bufcnt.toNat = s.bufcnt.toNat + 1 := landByte_bufcnt (by omega)
    rw [landBytes_cons, ih (by omega), hcount, landByte, cellRead_cellWrite, List.length_cons]
    rcases Nat.lt_trichotomy k s.bufcnt.toNat with hbelow | hplace | habove
    · rw [if_neg (by omega), if_neg (by omega), if_neg (by omega)]
    · rw [if_neg (by omega), if_pos hplace, if_pos (by omega), hplace, Nat.sub_self, List.getElem?_cons_zero]
    · have hshift : k - s.bufcnt.toNat = k - (s.bufcnt.toNat + 1) + 1 := by omega
      rw [if_neg (by omega : ¬ k = s.bufcnt.toNat), hshift, List.getElem?_cons_succ]
      exact ite_congr (propext (by omega)) (fun _ => rfl) (fun _ => rfl)

/-- The buffered bytes with the bytes that land after them read as one run. -/
theorem cellReads_landBytes {bs m : List Byte} {s : State} (hfit : s.bufcnt.toNat + bs.length ≤ 64)
    (hm : cellReads s.buf 0 s.bufcnt.toNat = some m) :
    cellReads (landBytes bs s).buf 0 (s.bufcnt.toNat + bs.length) = some (m ++ bs) := by
  obtain ⟨hlength, hread⟩ := (cellReads_eq_some _ _ _ _).mp hm
  refine (cellReads_eq_some _ _ _ _).mpr ⟨by simp [hlength], fun j hj => ?_⟩
  rw [Nat.zero_add, cellRead_landBytes hfit]
  by_cases hold : j < s.bufcnt.toNat
  · rw [if_neg (by omega), List.getElem?_append_left (by omega)]
    simpa using hread j hold
  · rw [if_pos (by omega), List.getElem?_append_right (by omega), hlength]

/-! ### ABSORB_BYTE of a run of bytes -/

/-- Bytes that leave the block short of 64 only land. -/
theorem absorbBytes_of_lt {bs : List Byte} {s : State} (hfit : s.bufcnt.toNat + bs.length < 64) :
    absorbBytes bs s = .next (landBytes bs s) := by
  induction bs generalizing s with
  | nil => rfl
  | cons b bs ih =>
    rw [List.length_cons] at hfit
    have hcount : (landByte b s).bufcnt.toNat = s.bufcnt.toNat + 1 := landByte_bufcnt (by omega)
    rw [absorbBytes_cons, absorbByte_of_lt (by omega), andThen_next, ih (by omega), landBytes_cons]

/-- Bytes that make the block exactly 64 end in its flush: all but the last only land, and the last one fills. -/
theorem absorbBytes_of_eq {bs m : List Byte} {s : State} (hne : bs ≠ []) (hfull : s.bufcnt.toNat + bs.length = 64)
    (hm : cellReads s.buf 0 s.bufcnt.toNat = some m) :
    ∃ blk : Block, blk.toList = m ++ bs ∧ absorbBytes bs s = .next (startBlock (compress blk (landBytes bs s))) := by
  have hblock : cellReads (landBytes bs s).buf 0 64 = some (m ++ bs) := hfull ▸ cellReads_landBytes hfull.le hm
  obtain ⟨blk, hblk⟩ := exists_block (cellReads_length hblock)
  refine ⟨blk, hblk, ?_⟩
  obtain ⟨front, last, rfl⟩ := List.eq_nil_or_concat' bs |>.resolve_left hne
  rw [List.length_append, List.length_singleton] at hfull
  have hcount : (landBytes front s).bufcnt.toNat = 63 := by rw [landBytes_bufcnt (by omega)]; omega
  have hflush : absorbByte last (landBytes front s) =
      .next (startBlock (compress blk (landBytes (front ++ [last]) s))) := by
    rw [absorbByte_of_eq hcount, ← landBytes_concat]
    exact flush_eq_next.mpr ⟨blk, hblk ▸ hblock, rfl⟩
  rw [absorbBytes_append, absorbBytes_of_lt (by omega), andThen_next, absorbBytes_cons, hflush]
  rfl

/-- Bytes that reach past the block: `front` completes it, and `rest` lands in the next one. -/
theorem absorbBytes_across {front rest m : List Byte} {s : State} (hopen : s.bufcnt.toNat ≤ 63)
    (hfull : s.bufcnt.toNat + front.length = 64) (hrest : rest.length < 64)
    (hm : cellReads s.buf 0 s.bufcnt.toNat = some m) :
    ∃ blk : Block, blk.toList = m ++ front ∧
      absorbBytes (front ++ rest) s = .next (landBytes rest (startBlock (compress blk (landBytes front s)))) := by
  obtain ⟨blk, hblk, hfill⟩ := absorbBytes_of_eq (List.ne_nil_of_length_pos (by omega)) hfull hm
  exact ⟨blk, hblk, by rw [absorbBytes_append, hfill, andThen_next, absorbBytes_of_lt (by simpa using hrest)]⟩

/-- The state after absorbing bytes and answering, in terms of the state before. -/
theorem respond_absorbBytes_frame {bs : List Byte} {s u : State} (w : Word) (habsorb : absorbBytes bs s = .next u) :
    respond w u = { s with
      h := u.h, blkcnt := u.blkcnt, bufcnt := u.bufcnt, buf := u.buf, dp := u.dp, freeCount := u.freeCount
      rsp := some w } := by
  obtain ⟨hdigest, hphase, hdvalid, herr, hcause, hport, -⟩ := absorbBytes_frame habsorb
  simp only [respond, hdigest, hphase, hdvalid, herr, hcause, hport]

/-! ### The bytes of the data word -/

theorem dataBytes_eq_map {n : BitVec 3} (data : Word) (hn : n.toNat ≤ 4) :
    dataBytes n data = (List.range n.toNat).map (wordByte data) := by
  have hbytes : be32 data = (List.range 4).map (wordByte data) := rfl
  rw [dataBytes, hbytes, ← List.map_take, List.take_range, Nat.min_eq_left hn]

theorem dataBytes_length {n : BitVec 3} (data : Word) (hn : n.toNat ≤ 4) : (dataBytes n data).length = n.toNat := by
  simp [dataBytes_eq_map data hn]

theorem dataBytes_getElem? {n : BitVec 3} (data : Word) (hn : n.toNat ≤ 4) {k : Nat} (hk : k < n.toNat) :
    (dataBytes n data)[k]? = some (wordByte data k) := by
  simp [dataBytes_eq_map data hn, hk]

theorem dataBytes_take {n : BitVec 3} (data : Word) (hn : n.toNat ≤ 4) {k : Nat} (hk : k ≤ n.toNat) :
    (dataBytes n data).take k = (List.range k).map (wordByte data) := by
  rw [dataBytes_eq_map data hn, ← List.map_take, List.take_range, Nat.min_eq_left hk]

/-! ### The two cases of ABSORB -/

/-- ABSORB with its checks passed ends in the state its bytes lead to, with the response 0. -/
theorem exec_absorb_of_absorbBytes {n : BitVec 3} {data : Word} {s u : State} (herr : s.err = false)
    (hphase : s.phase = .active) (hn : n.toNat ≤ 4) (hlimit : s.messageBytes + n.toNat < 2 ^ 61)
    (habsorb : absorbBytes (dataBytes n data) s = .next u) : exec (.absorb n data) s = .next (respond 0 u) := by
  rw [exec_absorb, execAbsorb_success herr hn hphase hlimit, habsorb, andThen_next, complete_eq]

/-- Settles O15: the bytes only land (`absorbBytes_of_lt`), and landing writes what `cellRead_landBytes` says. -/
theorem absorbWithinBlock : Obligations.AbsorbWithinBlock := by
  intro s n data herr hphase hn hlimit hfit
  have hlength := dataBytes_length data hn
  have habsorb : absorbBytes (dataBytes n data) s = .next (landBytes (dataBytes n data) s) :=
    absorbBytes_of_lt (by omega)
  refine ⟨_, exec_absorb_of_absorbBytes herr hphase hn hlimit habsorb, ?_, fun k => ?_, ?_⟩
  · rw [respond_bufcnt, landBytes_bufcnt (by omega), hlength]
  · rw [respond_buf, cellRead_landBytes (by omega), hlength]
    exact ite_congr rfl (fun hplace => dataBytes_getElem? data hn (by omega)) (fun _ => rfl)
  · exact congrArg (respond 0) (landBytes_frame (dataBytes n data) s)

/-- Settles O16: the data bytes are those that complete the block and those that are left (`absorbBytes_across`). -/
theorem absorbFillsBlock : Obligations.AbsorbFillsBlock := by
  intro s n data m herr hphase hn hlimit hopen hfull hm
  have hlength := dataBytes_length data hn
  have htake := dataBytes_take data hn (k := 64 - s.bufcnt.toNat) (by omega)
  have hdrop : ((dataBytes n data).drop (64 - s.bufcnt.toNat)).length = s.bufcnt.toNat + n.toNat - 64 := by
    rw [List.length_drop]
    omega
  obtain ⟨blk, hblk, habsorb⟩ := absorbBytes_across (front := (dataBytes n data).take (64 - s.bufcnt.toNat))
    (rest := (dataBytes n data).drop (64 - s.bufcnt.toNat)) hopen (by rw [List.length_take]; omega) (by omega) hm
  rw [List.take_append_drop] at habsorb
  refine ⟨_, blk, exec_absorb_of_absorbBytes herr hphase hn hlimit habsorb, htake ▸ hblk, ?_, ?_, ?_, fun k => ?_,
    respond_absorbBytes_frame 0 habsorb⟩
  · simp
  · simp only [respond_blkcnt, landBytes_blkcnt, startBlock_blkcnt, compress_blkcnt]
    exact blkcnt_succ (by omega)
  · rw [respond_bufcnt, landBytes_bufcnt (by simp; omega), startBlock_bufcnt_toNat, hdrop, Nat.zero_add]
  · rw [respond_buf, cellRead_landBytes (by simp; omega), hdrop]
    simp only [startBlock_bufcnt_toNat, startBlock_buf, cellRead_nil, Nat.zero_le, true_and, Nat.zero_add,
      Nat.sub_zero, List.getElem?_drop]
    exact ite_congr rfl (fun hleft => dataBytes_getElem? data hn (by omega)) (fun _ => rfl)

end Sys2Proof.Proofs
end

section
/-! Proofs about FINALIZE (43_finalize.md R171 to R174): the length and its place in the final block, the padding
blocks, and the big-endian serializer. -/

namespace Sys2Proof.Proofs

open Sys2Proof Sys2Proof.Machine

/-! ### The length field -/

/-- LENGTH() as the formula of R171 over the numbers BLKCNT and BUFCNT. -/
theorem lengthBits_eq_ofNat (s : State) :
    s.lengthBits = BitVec.ofNat 64 (s.blkcnt.toNat * 512 + s.bufcnt.toNat * 8) := by
  simp only [State.lengthBits, BitVec.ofNat_add, BitVec.ofNat_mul, BitVec.ofNat_toNat]
  rfl

theorem be64_eq_map (v : BitVec 64) : be64 v = (List.range 8).map fun j => v.extractLsb' (56 - 8 * j) 8 := rfl

/-- R173: the bytes of BE64(L) stand at places 56..63 of a final block. -/
theorem getElem_of_toList_append_be64 {front : List Byte} {len : BitVec 64} {blk : Block} (hfront : front.length = 56)
    (hblk : blk.toList = front ++ be64 len) (j : Nat) (hj : j < 8) :
    blk[56 + j]'(by omega) = len.extractLsb' (56 - 8 * j) 8 := by
  have hplace : blk[56 + j]? = some (len.extractLsb' (56 - 8 * j) 8) := by
    rw [← Vector.getElem?_toList, hblk, List.getElem?_append_right (by omega)]
    simp [hfront, be64_eq_map, hj]
  exact (Vector.getElem?_eq_some_iff.mp hplace).2

/-- WORD_BE of four neighbouring bytes of a value, the most significant first, is the word they stand in. -/
theorem wordBE_extractLsb' {n : Nat} (v : BitVec n) (low : Nat) :
    wordBE (v.extractLsb' (low + 24) 8) (v.extractLsb' (low + 16) 8) (v.extractLsb' (low + 8) 8) (v.extractLsb' low 8) =
      v.extractLsb' low 32 := by
  rw [wordBE_eq_append, BitVec.extractLsb'_append_extractLsb'_eq_extractLsb' (by omega),
    BitVec.extractLsb'_append_extractLsb'_eq_extractLsb' (by omega),
    BitVec.extractLsb'_append_extractLsb'_eq_extractLsb' (by omega)]

/-- Settles O22: the bytes are those of BE64(L) (`getElem_of_toList_append_be64`), and LOAD puts the upper four and the
lower four together (`wordBE_extractLsb'`). -/
theorem lengthFieldWords : Obligations.LengthFieldWords := by
  intro front len blk hfront hblk
  have hbyte := getElem_of_toList_append_be64 hfront hblk
  refine ⟨fun j => hbyte j.val j.isLt, ?_, ?_⟩
  · calc (load blk)[14] = wordBE blk[56] blk[57] blk[58] blk[59] := load_getElem blk 14
      _ = len.extractLsb' 32 32 := by
        rw [hbyte 0 (by decide), hbyte 1 (by decide), hbyte 2 (by decide), hbyte 3 (by decide)]
        exact wordBE_extractLsb' len 32
  · calc (load blk)[15] = wordBE blk[60] blk[61] blk[62] blk[63] := load_getElem blk 15
      _ = len.extractLsb' 0 32 := by
        rw [hbyte 4 (by decide), hbyte 5 (by decide), hbyte 6 (by decide), hbyte 7 (by decide)]
        exact wordBE_extractLsb' len 0

/-! ### Padding and serializing -/

/-- Place 4i + k of DIGEST is byte k of H[i] (R174), read off each of the twenty places. -/
theorem digestOf_getElem (h : Vector Word 5) (i : Fin 5) (k : Fin 4) :
    (digestOf h)[4 * i.val + k.val] = wordByte h[i] k.val := by
  fin_cases i <;> fin_cases k <;> rfl

/-- The padding blocks of R172 and the H they leave, on both sides of the boundary of R175. -/
theorem padAndCompress_blocks (len : BitVec 64) {m : List Byte} (s : State) (hlength : m.length ≤ 63) :
    ∃ u, padAndCompress len m s = .next u ∧
      if m.length ≤ 55 then
        ∃ p1 : Block, p1.toList = m ++ [0x80#8] ++ zeros (55 - m.length) ++ be64 len ∧ u.h = compressH p1 s.h
      else
        ∃ p1 p2 : Block, p1.toList = m ++ [0x80#8] ++ zeros (63 - m.length) ∧ p2.toList = zeros 56 ++ be64 len ∧
          u.h = compressH p2 (compressH p1 s.h) := by
  split
  · next hone =>
    obtain ⟨p1, hp1, hpad⟩ := padAndCompress_one (len := len) s hone
    exact ⟨_, hpad, p1, hp1, rfl⟩
  · next htwo =>
    obtain ⟨p1, p2, hp1, hp2, hpad⟩ := padAndCompress_two (len := len) s (by omega) hlength
    exact ⟨_, hpad, p1, p2, hp1, hp2, rfl⟩

/-- FINALIZE in ACTIVE ends in the state its padding leads to, serialized, consumed and answered. -/
theorem exec_finalize_of_padAndCompress {s u : State} {m : List Byte} (herr : s.err = false)
    (hphase : s.phase = .active) (hopen : s.bufcnt.toNat ≤ 63) (hm : cellReads s.buf 0 s.bufcnt.toNat = some m)
    (hpad : padAndCompress s.lengthBits m s = .next u) :
    exec .finalize s = .next (respond 0 (consume (serialize u))) := by
  rw [exec_finalize, execFinalize_success herr hphase]
  exact finishMessage_eq_next.mpr ⟨by omega, m, u, hm, hpad, rfl⟩

/-- The state FINALIZE ends in, in terms of the state before. -/
theorem respond_consume_serialize_frame {len : BitVec 64} {m : List Byte} {s u : State}
    (hpad : padAndCompress len m s = .next u) :
    respond 0 (consume (serialize u)) = { s with
      h := u.h, digest := digestOf u.h, dp := u.dp, freeCount := u.freeCount, buf := [], phase := .consumed
      dvalid := true, rsp := some 0 } := by
  rw [padAndCompress_frame hpad]
  rfl

/-- STATUS reads 6 in CONSUMED with the digest valid and no error (R34). -/
theorem status_consumed {s : State} (hphase : s.phase = .consumed) (hdvalid : s.dvalid = true) (herr : s.err = false)
    (hcause : s.cause = .none) : s.status = 6 := by
  simp [State.status, hphase, hdvalid, herr, hcause, Cause.code, Phase.code]

/-- Settles O20: the padding is `padAndCompress_blocks` with the length of `lengthBits_eq_ofNat`, DIGEST is
`digestOf_getElem`, and the rest is the frame of the padding with what SERIALIZE and the end of FINALIZE write. -/
theorem finalizePadsAndSerializes : Obligations.FinalizePadsAndSerializes := by
  intro s m herr hphase hopen hm
  have hlength : m.length = s.bufcnt.toNat := cellReads_length hm
  obtain ⟨u, hpad, hblocks⟩ := padAndCompress_blocks s.lengthBits s (hlength ▸ hopen)
  have hframe := respond_consume_serialize_frame hpad
  rw [lengthBits_eq_ofNat, hlength] at hblocks
  refine ⟨_, exec_finalize_of_padAndCompress herr hphase hopen hm hpad, hblocks, digestOf_getElem u.h, hframe,
    fun hcause => ?_⟩
  rw [hframe]
  exact status_consumed rfl rfl herr hcause

end Sys2Proof.Proofs
end

section
/-! Proofs about the read commands (44_readback.md R191 to R197) and the layout of STATUS (10_state.md R34): each read
that passes its checks only responds, so what is left to say is the word it answers. -/

namespace Sys2Proof.Proofs

open Sys2Proof Sys2Proof.Machine Sys2Proof.Reference

/-! ### STATUS -/

/-- The bits that zero extension adds are zero. -/
theorem extractLsb'_setWidth_eq_zero {n start : Nat} (v len : Nat) (x : BitVec n) (hstart : n ≤ start) :
    (x.setWidth v).extractLsb' start len = 0 := by
  apply BitVec.eq_of_getLsbD_eq
  intro i _
  simp [BitVec.getLsbD_of_ge x (start + i) (by omega)]

/-- The fields of STATUS lie side by side in its low byte, so joining them is shifting each into its place. -/
theorem status_eq_shifted_fields (s : State) :
    s.status = (s.cause.code.setWidth 32 <<< 4) ||| ((BitVec.ofBool s.err).setWidth 32 <<< 3)
      ||| ((BitVec.ofBool s.dvalid).setWidth 32 <<< 2) ||| s.phase.code.setWidth 32 :=
  BitVec.setWidth_append_append_append_eq_shiftLeft_setWidth_or

theorem status_reserved_eq_zero (s : State) : s.status.extractLsb' 8 24 = 0 :=
  extractLsb'_setWidth_eq_zero 32 24 _ (by decide)

theorem phaseCode_ne_three (p : Phase) : p.code ≠ 3 := by
  cases p <;> decide

theorem causeCode_le_six (c : Cause) : c.code.toNat ≤ 6 := by
  cases c <;> decide

/-- Settles O24: RDSTAT only responds, with STATUS (`execRdstat_eq`); the layout is `status_eq_shifted_fields`, and the
word is its row of the opcode map. -/
theorem rdstatReadsStatus : Obligations.RdstatReadsStatus :=
  ⟨fun data => decode_opcodeMap data (0x40000000#32, .rdstat) (by simp [opcodeMap]), execRdstat_eq,
    status_eq_shifted_fields,
    fun s => ⟨status_reserved_eq_zero s, phaseCode_ne_three s.phase, causeCode_le_six s.cause⟩, rfl⟩

/-! ### The registers -/

/-- Settles O25: the word of `execRddig_success`, with WORD_BE as concatenation (`wordBE_eq_append`). -/
theorem rddigReadsDigestWord : Obligations.RddigReadsDigestWord := by
  intro s i hi herr hvalid
  rw [exec_rddig, execRddig_success herr hi hvalid, wordBE_eq_append]
  rfl

/-- Settles O26: this is `execRdh_success`. -/
theorem rdhReadsAccumulatorWord : Obligations.RdhReadsAccumulatorWord :=
  fun _ _ hi herr hphase => execRdh_success herr hi hphase

/-! ### The counters -/

/-- HALF = 0 selects BLKCNT[31:0] (R195). -/
theorem toNat_blkcntHalf_zero (blkcnt : BitVec 55) : (blkcntHalf 0 blkcnt).toNat = blkcnt.toNat % 2 ^ 32 := by
  simp [blkcntHalf]

/-- HALF = 1 selects BLKCNT[54:32], zero-extended (R195). -/
theorem blkcntHalf_one (blkcnt : BitVec 55) : blkcntHalf 1 blkcnt = (blkcnt.extractLsb' 32 23).setWidth 32 :=
  if_neg (by decide)

/-- BLKCNT has 55 bits, so the 23 bits above the low 32 are all of its quotient by 2^32. -/
theorem toNat_blkcntHalf_one (blkcnt : BitVec 55) : (blkcntHalf 1 blkcnt).toNat = blkcnt.toNat / 2 ^ 32 := by
  have hcount := blkcnt.isLt
  rw [blkcntHalf_one, BitVec.toNat_setWidth, BitVec.extractLsb'_toNat, Nat.shiftRight_eq_div_pow]
  omega

/-- Settles O27: the word of `execRdblk_success`, each half as a number. -/
theorem rdblkReadsCounterHalf : Obligations.RdblkReadsCounterHalf := by
  intro s half herr hphase
  refine ⟨blkcntHalf half s.blkcnt, execRdblk_success herr hphase, ?_, ?_⟩
  · rintro rfl
    exact toNat_blkcntHalf_zero s.blkcnt
  · rintro rfl
    refine ⟨toNat_blkcntHalf_one s.blkcnt, ?_⟩
    rw [blkcntHalf_one]
    exact extractLsb'_setWidth_eq_zero 32 9 _ (by decide)

/-- Settles O28: the word of `execRdbuf_success`, with zero extension as the same number in 32 bits. -/
theorem rdbufReadsByteCount : Obligations.RdbufReadsByteCount := by
  intro s herr hphase
  rw [exec_rdbuf, execRdbuf_success herr hphase, ← BitVec.ofNat_toNat]
  rfl

end Sys2Proof.Proofs
end

section
/-! Proofs about the error state (60_exceptions.md R215, R217): which words the ERR gate lets through, what a step does
while ERR = 1, and which requests leave the error state. -/

namespace Sys2Proof.Proofs

open Sys2Proof Sys2Proof.Machine Sys2Proof.Reference

/-! ### The gate on command words -/

/-- A command that the gate lets through has one of the three exempt words. -/
theorem opcodeMap_exempt (data : Word) :
    ∀ row ∈ opcodeMap data, exempt row.2 = true → row.1 ∈ [0x00000000#32, 0x10000000#32, 0x40000000#32] := by
  simp [opcodeMap, exempt]

/-- A word of the opcode map runs the command of its row. -/
theorem runCommand_of_row {cmd data : Word} {i : Instr} (hrow : (cmd, i) ∈ opcodeMap data) (s : State) :
    runCommand cmd data s = exec i s :=
  runCommand_ok (decode_opcodeMap data (cmd, i) hrow) s

/-- While ERR = 1 every word but the exempt three is ignored: a legal one by the gate of its command, an illegal one by
the gate before ILLEGAL_CMD (R215). -/
theorem runCommand_of_gated {cmd data : Word} {s : State} (herr : s.err = true)
    (hword : cmd ∉ [0x00000000#32, 0x10000000#32, 0x40000000#32]) :
    runCommand cmd data s = .next (respond 0 s) := by
  cases hdecode : decode cmd data with
  | ok i =>
    have hrow : (cmd, i) ∈ opcodeMap data := (legalWordsDecode cmd data i).mp hdecode
    have hexempt : exempt i = false := Bool.eq_false_iff.mpr fun h => hword (opcodeMap_exempt data (cmd, i) hrow h)
    rw [runCommand_ok hdecode, exec_of_gated herr hexempt]
  | error e => rw [runCommand_error hdecode, illegalCommand, gated_of_err _ herr]

/-- A step on the word of INIT starts a message, whatever the state (R101). -/
theorem step_init {s : State} {data : Word} {rest : List Request}
    (hport : s.port = .command 0x10000000#32 data :: rest) :
    step s = .next (respond 0 (startMessage { s with port := rest })) := by
  rw [step_command hport, runCommand_of_row (i := .init) (by simp [opcodeMap]), exec_init, execInit_eq]

/-- Settles O9: the words that are not exempt by `runCommand_of_gated`, each exempt one by its row of the map. -/
theorem errGateIgnoresCommands : Obligations.ErrGateIgnoresCommands := by
  intro s cmd data rest hport herr
  refine ⟨fun hword => ?_, ?_, ?_, ?_⟩
  · exact (step_command hport).trans (runCommand_of_gated (s := { s with port := rest }) herr hword)
  · rintro rfl
    rw [step_command hport, runCommand_of_row (i := .nop) (by simp [opcodeMap]), exec_nop, execNop_eq]
    rfl
  · rintro rfl
    rw [step_command hport, runCommand_of_row (i := .rdstat) (by simp [opcodeMap]), exec_rdstat, execRdstat_eq]
    rfl
  · rintro rfl
    exact ⟨_, step_init hport, rfl, rfl, rfl, rfl⟩

/-! ### Leaving the error state -/

/-- With no request at the port a step changes nothing (R226). -/
theorem step_idle {s : State} (hport : s.port = []) : step s = .next s := by
  simp [step, transact, hport]

/-- While ERR = 1 a step on any word but INIT's only takes the request and responds: R215's other cases in one. -/
theorem step_only_responds {s : State} {cmd data : Word} {rest : List Request}
    (hport : s.port = .command cmd data :: rest) (herr : s.err = true) (hinit : cmd ≠ 0x10000000#32) :
    ∃ w, step s = .next { s with port := rest, rsp := some w } := by
  obtain ⟨hignored, hnop, hrdstat, -⟩ := errGateIgnoresCommands s cmd data rest hport herr
  by_cases hzero : cmd = 0x00000000#32
  · exact ⟨0, hnop hzero⟩
  by_cases hstat : cmd = 0x40000000#32
  · exact ⟨s.status, hrdstat hstat⟩
  exact ⟨0, hignored (by simp [hzero, hinit, hstat])⟩

/-- A step on a request that clears the error ends with ERR = 0 and CAUSE = NONE, whatever the state (R217). -/
theorem step_clears_error {s : State} {r : Request} {rest : List Request} (hport : s.port = r :: rest)
    (hclears : clearsError r = true) : ∃ t, step s = .next t ∧ t.err = false ∧ t.cause = .none := by
  cases r with
  | command cmd data =>
    obtain rfl : cmd = 0x10000000#32 := of_decide_eq_true hclears
    exact ⟨_, step_init hport, rfl, rfl⟩
  | reset => exact ⟨_, transact_cons hport, applyReset_err _, applyReset_cause _⟩
  | commandReset cmd data => exact ⟨_, transact_cons hport, applyReset_err _, applyReset_cause _⟩

/-- Settles O33: the requests that clear the error by `step_clears_error`; of the others an idle step keeps the whole
state, and a word other than INIT's keeps ERR and CAUSE by `step_only_responds`. -/
theorem onlyInitAndResetClearErr : Obligations.OnlyInitAndResetClearErr := by
  refine ⟨fun s r rest => step_clears_error, fun s t hstep herr hkeeps => ?_⟩
  cases hport : s.port with
  | nil =>
    cases (step_idle hport).symm.trans hstep
    exact ⟨herr, rfl⟩
  | cons r rest =>
    have hnot : clearsError r = false := hkeeps r rest hport
    cases r with
    | command cmd data =>
      obtain ⟨w, hrespond⟩ := step_only_responds hport herr (of_decide_eq_false hnot)
      cases hrespond.symm.trans hstep
      exact ⟨herr, rfl⟩
    | reset => cases hnot
    | commandReset cmd data => cases hnot

end Sys2Proof.Proofs
end

section
/-! Proofs about encoding (30_encoding.md R75, R76, R77): decoding and encoding undo each other, and a rejected word has
one of the listed illegal bits. -/

namespace Sys2Proof.Proofs

open Sys2Proof Sys2Proof.Machine Sys2Proof.Reference

/-! ### Decoding and encoding -/

/-- Settles O4: a well-formed instruction has its row in the opcode map, and the rows decode as they say. -/
theorem encodedCommandDecodesBack : Obligations.EncodedCommandDecodesBack := by
  intro i hwf
  have hdata : ∀ n d, i = .absorb n d → d = (encode i).2 := by
    rintro n d rfl
    rfl
  exact decode_opcodeMap (encode i).2 ((encode i).1, i) (encode_mem_opcodeMap hwf hdata)

/-- Settles O5: this is `encode_of_decode_ok`, with the data word an ABSORB is encoded with. -/
theorem decodedWordEncodesBack : Obligations.DecodedWordEncodesBack := by
  intro cmd data i hok
  obtain ⟨hwf, hword, hdata⟩ := encode_of_decode_ok hok
  refine ⟨hwf, hword, ?_⟩
  rintro n d rfl
  exact hdata n d rfl

/-! ### Rejected words -/

/-- A field that is not zero shows under every mask that covers it. -/
theorem and_ne_zero_of_extractLsb'_ne_zero {cmd mask : Word} {lo len : Nat}
    (hcovers : mask.extractLsb' lo len = BitVec.allOnes len) (hfield : cmd.extractLsb' lo len ≠ 0) :
    cmd &&& mask ≠ 0 := by
  intro hmasked
  apply hfield
  calc cmd.extractLsb' lo len = (cmd &&& mask).extractLsb' lo len := by
        rw [BitVec.extractLsb'_and, hcovers, BitVec.and_allOnes]
    _ = 0 := by rw [hmasked]; exact BitVec.extractLsb'_zero

theorem decodeZ_error {cmd : Word} {i : Instr} {e : Reject} (herror : decodeZ cmd i = .error e) :
    cmd &&& 0x0FFFFFFF#32 ≠ 0 := by
  unfold decodeZ at herror
  split at herror
  · cases herror
  · next hreserved => exact and_ne_zero_of_extractLsb'_ne_zero (by decide) hreserved

theorem decodeOperand_error {cmd : Word} {mk : BitVec 3 → Instr} {e : Reject}
    (herror : decodeOperand cmd mk = .error e) :
    cmd &&& 0x0FFFFFF8#32 ≠ 0 ∨ 4 < (cmd &&& 0x7#32).toNat := by
  unfold decodeOperand at herror
  split at herror
  · split at herror
    · cases herror
    · next hlegal =>
      rw [← toNat_operandField]
      exact .inr (by simpa [operandLegal] using hlegal)
  · next hreserved => exact .inl (and_ne_zero_of_extractLsb'_ne_zero (by decide) hreserved)

theorem decodeHF_error {cmd : Word} {mk : BitVec 1 → Instr} {e : Reject} (herror : decodeHF cmd mk = .error e) :
    cmd &&& 0x0FFFFFFE#32 ≠ 0 := by
  unfold decodeHF at herror
  split at herror
  · cases herror
  · next hreserved => exact and_ne_zero_of_extractLsb'_ne_zero (by decide) hreserved

/-- Each format rejects for the bits R77 lists, and an OP the decoder has no arm for is at least 9. -/
theorem illegalBits_of_decode_error {cmd data : Word} {e : Reject} (herror : decode cmd data = .error e) :
    IllegalBits cmd := by
  rw [IllegalBits, ← toNat_opField]
  unfold decode at herror
  split at herror
  · next hop => exact .inr (.inl ⟨by simp [hop], decodeZ_error herror⟩)
  · next hop => exact .inr (.inl ⟨by simp [hop], decodeZ_error herror⟩)
  · next hop => exact .inr (.inr (.inl ⟨by simp [hop], decodeOperand_error herror⟩))
  · next hop => exact .inr (.inl ⟨by simp [hop], decodeZ_error herror⟩)
  · next hop => exact .inr (.inl ⟨by simp [hop], decodeZ_error herror⟩)
  · next hop => exact .inr (.inr (.inl ⟨by simp [hop], decodeOperand_error herror⟩))
  · next hop => exact .inr (.inr (.inl ⟨by simp [hop], decodeOperand_error herror⟩))
  · next hop => exact .inr (.inr (.inr ⟨hop, decodeHF_error herror⟩))
  · next hop => exact .inr (.inl ⟨by simp [hop], decodeZ_error herror⟩)
  · left
    grind

/-- Settles O3: `illegalBits_of_decode_error` one way, `decode_error_of_illegalBits` the other. -/
theorem illegalBitsAreRejected : Obligations.IllegalBitsAreRejected :=
  fun _ data =>
    ⟨fun ⟨_, herror⟩ => illegalBits_of_decode_error herror, fun hbits => decode_error_of_illegalBits hbits data⟩

/-- Settles O1: the legal words are rows of the opcode map, and the decoder evaluates on the four illegal ones. -/
theorem sampleWordsDecode : Obligations.SampleWordsDecode := by
  have hrow (data : Word) := decode_opcodeMap data
  exact ⟨hrow _ (0x00000000#32, .nop) (by simp [opcodeMap]), hrow _ (0x10000000#32, .init) (by simp [opcodeMap]),
    hrow _ (0x20000003#32, .absorb 3 0x61626300#32) (by simp [opcodeMap]),
    hrow _ (0x30000000#32, .finalize) (by simp [opcodeMap]), hrow _ (0x50000004#32, .rddig 4) (by simp [opcodeMap]),
    hrow _ (0x60000002#32, .rdh 2) (by simp [opcodeMap]), hrow _ (0x70000001#32, .rdblk 1) (by simp [opcodeMap]),
    rfl, rfl, rfl, rfl⟩

end Sys2Proof.Proofs
end

section
/-! Proofs about the invariants (10_state.md R39): the reset state has them, every step keeps them, and none stops. -/

namespace Sys2Proof.Proofs

open Sys2Proof Sys2Proof.Machine

/-! ### The state after reset -/

/-- The length bound is no more than the widths: BLKCNT has 55 bits and BUFCNT is at most 63 (R39 (2)). -/
theorem messageBytes_le_of_bufcnt_le {s : State} (hcount : s.bufcnt.toNat ≤ 63) : s.messageBytes ≤ 2 ^ 61 - 1 := by
  have hblocks := s.blkcnt.isLt
  rw [State.messageBytes]
  omega

theorem causeCode_eq_zero_iff (c : Cause) : c.code = 0 ↔ c = .none := by
  cases c <;> decide

/-- Settles O39: in IDLE with DVALID = 0 and nothing in BUF the conditional invariants ask nothing. -/
theorem resetMeetsInvariants : Obligations.ResetMeetsInvariants where
  bufcnt_le := by decide
  length_le := messageBytes_le_of_bufcnt_le (by decide)
  err_iff_cause := by decide
  phase_ne_three := phaseCode_ne_three _
  idle_not_valid := fun _ => rfl
  digest_of_h := nofun
  valid_iff_consumed := by decide
  buf_wf := rfl
  buf_valid := nofun

/-! ### What each effect keeps -/

/-- The invariants do not look at the ports. -/
theorem inv_withPorts {s : State} (hinv : s.Inv) (port : List Request) (rsp : Option Word) :
    { s with port := port, rsp := rsp }.Inv := { hinv with }

theorem inv_respond {s : State} (hinv : s.Inv) (w : Word) : (respond w s).Inv := inv_withPorts hinv s.port (some w)

/-- Error entry writes ERR and CAUSE together (R214). -/
theorem inv_errored {s : State} {c : Cause} (hinv : s.Inv) (hcause : c ≠ .none) : (errored c s).Inv :=
  { hinv with err_iff_cause := by simpa using mt (causeCode_eq_zero_iff c).mp hcause }

/-- INIT sets every element the invariants speak of. -/
theorem inv_startMessage (s : State) : (startMessage s).Inv where
  bufcnt_le := by simp
  length_le := messageBytes_le_of_bufcnt_le (by simp)
  err_iff_cause := by simp [Cause.code]
  phase_ne_three := phaseCode_ne_three _
  idle_not_valid := by simp
  digest_of_h := by simp
  valid_iff_consumed := by simp
  buf_wf := by simp
  buf_valid := by simp

/-- The reset action sets them as well: its free BUFCNT is at most 63 (log 6). -/
theorem inv_applyReset (s : State) : (applyReset s).Inv := by
  have hcount : (applyReset s).bufcnt.toNat ≤ 63 := by
    have hfree := (Config.freeBufcnt s.freeCount).isLt
    rw [applyReset_bufcnt, BitVec.toNat_ofNat]
    omega
  exact {
    bufcnt_le := hcount
    length_le := messageBytes_le_of_bufcnt_le hcount
    err_iff_cause := by simp [Cause.code]
    phase_ne_three := phaseCode_ne_three _
    idle_not_valid := by simp
    digest_of_h := by simp
    valid_iff_consumed := by simp
    buf_wf := by simp
    buf_valid := by simp }

/-- Bytes absorbed in ACTIVE keep BUF's form and its count (`absorbBytes_progress`); no digest is valid there. -/
theorem inv_absorbBytes {bs : List Byte} {s t : State} (hinv : s.Inv) (hphase : s.phase = .active)
    (habsorb : absorbBytes bs s = .next t) : t.Inv := by
  obtain ⟨-, htphase, htdvalid, hterr, htcause, -, -⟩ := absorbBytes_frame habsorb
  obtain ⟨t', habsorb', hcount, hcells⟩ := absorbBytes_progress bs (bufHoldsCount_of_inv hinv hphase)
  cases habsorb'.symm.trans habsorb
  have hinvalid : ¬ s.dvalid = true := by simp [hinv.valid_iff_consumed, hphase]
  exact {
    bufcnt_le := hcount
    length_le := messageBytes_le_of_bufcnt_le hcount
    err_iff_cause := by rw [hterr, htcause]; exact hinv.err_iff_cause
    phase_ne_three := phaseCode_ne_three _
    idle_not_valid := fun _ => by simpa [htdvalid] using hinvalid
    digest_of_h := fun hvalid => absurd (htdvalid ▸ hvalid) hinvalid
    valid_iff_consumed := by rw [htdvalid, htphase]; exact hinv.valid_iff_consumed
    buf_wf := absorbBytes_wf habsorb hinv.buf_wf
    buf_valid := fun _ => hcells }

/-- FINALIZE leaves the counters and the error alone, and serializes the H it leaves (R174, R177). -/
theorem inv_finishMessage {s t : State} (hinv : s.Inv) (hfinish : finishMessage s = .next t) : t.Inv := by
  obtain ⟨-, m, u, -, hpad, rfl⟩ := finishMessage_eq_next.mp hfinish
  rw [respond_consume_serialize_frame hpad]
  exact {
    bufcnt_le := hinv.bufcnt_le
    length_le := hinv.length_le
    err_iff_cause := hinv.err_iff_cause
    phase_ne_three := phaseCode_ne_three _
    idle_not_valid := nofun
    digest_of_h := fun _ => digestOf_getElem u.h
    valid_iff_consumed := by simp
    buf_wf := rfl
    buf_valid := nofun }

/-! ### Commands and steps -/

/-- Every command keeps the invariants, each of its ends (`exec_cases`) by the lemma about that effect. -/
theorem inv_exec {i : Instr} {s t : State} (hinv : s.Inv) (hexec : exec i s = .next t) : t.Inv := by
  rcases exec_cases hexec with ⟨-, rfl⟩ | ⟨-, c, hcause, rfl⟩ | ⟨w, rfl⟩ | ⟨-, rfl⟩ |
    ⟨-, n, d, -, -, hphase, -, u, habsorb, rfl⟩ | ⟨-, -, -, hfinish⟩
  · exact inv_respond hinv 0
  · exact inv_errored hinv hcause
  · exact inv_respond hinv w
  · exact inv_respond (inv_startMessage s) 0
  · exact inv_respond (inv_absorbBytes hinv hphase habsorb) 0
  · exact inv_finishMessage hinv hfinish

/-- An illegal word is ignored or raises ILLEGAL_CMD (R77, R215). -/
theorem illegalCommand_cases (s : State) :
    (s.err = true ∧ illegalCommand s = .next (respond 0 s)) ∨
      (s.err = false ∧ illegalCommand s = .next (errored .illegalCmd s)) := by
  cases herr : s.err with
  | true => exact .inl ⟨rfl, gated_of_err _ herr⟩
  | false => exact .inr ⟨rfl, gated_of_no_err _ herr⟩

theorem inv_runCommand {cmd data : Word} {s t : State} (hinv : s.Inv) (hrun : runCommand cmd data s = .next t) :
    t.Inv := by
  cases hdecode : decode cmd data with
  | ok i => exact inv_exec hinv (runCommand_ok hdecode s ▸ hrun)
  | error e =>
    rw [runCommand_error hdecode] at hrun
    rcases illegalCommand_cases s with ⟨-, hignored⟩ | ⟨-, hraised⟩
    · cases hignored.symm.trans hrun
      exact inv_respond hinv 0
    · cases hraised.symm.trans hrun
      exact inv_errored hinv (by decide)

/-- All a step can do: nothing, where no request waits; else it takes the oldest request and runs a command or resets
(R226, R240, R241). -/
theorem step_cases {s : State} {r : Result} (hstep : step s = r) :
    (s.port = [] ∧ r = .next s) ∨
      (∃ cmd data rest, s.port = .command cmd data :: rest ∧ r = runCommand cmd data { s with port := rest }) ∨
      (∃ q rest, s.port = q :: rest ∧ (q = .reset ∨ ∃ cmd data, q = .commandReset cmd data) ∧
        r = .next (applyReset { s with port := rest })) := by
  subst hstep
  cases hport : s.port with
  | nil => exact .inl ⟨rfl, step_idle hport⟩
  | cons q rest =>
    have hrest : step s = accept q { s with port := rest } := transact_cons hport
    cases q with
    | command cmd data => exact .inr (.inl ⟨cmd, data, rest, rfl, hrest⟩)
    | reset => exact .inr (.inr ⟨.reset, rest, rfl, .inl rfl, hrest⟩)
    | commandReset cmd data => exact .inr (.inr ⟨_, rest, rfl, .inr ⟨cmd, data, rfl⟩, hrest⟩)

/-- Settles O38: the idle step changes nothing, a command keeps the invariants, and reset sets them. -/
theorem stepKeepsInvariants : Obligations.StepKeepsInvariants := by
  intro s t hinv hstep
  rcases step_cases hstep with ⟨-, hidle⟩ | ⟨cmd, data, rest, -, hrun⟩ | ⟨q, rest, -, -, hreset⟩
  · cases hidle
    exact hinv
  · exact inv_runCommand (inv_withPorts hinv rest s.rsp) hrun.symm
  · cases hreset
    exact inv_applyReset _

/-- Settles O40: only a command can stop, and under the invariants of BUF it does not (`runCommand_progress`). -/
theorem stepNeverStops : Obligations.StepNeverStops := by
  intro s hinv
  rcases step_cases (rfl : step s = step s) with ⟨-, hidle⟩ | ⟨cmd, data, rest, -, hrun⟩ | ⟨q, rest, -, -, hreset⟩
  · exact ⟨s, hidle⟩
  · obtain ⟨t, ht⟩ := runCommand_progress cmd data (s := { s with port := rest }) 
      (bufHoldsCount_of_inv (inv_withPorts hinv rest s.rsp))
    exact ⟨t, hrun.trans ht⟩
  · exact ⟨_, hreset⟩

end Sys2Proof.Proofs
end

section
/-! Proofs about errors (60_exceptions.md R210 to R217): a command raises exactly the error of the table, a step that
sets ERR does nothing else, and ERR stays set until INIT. -/

namespace Sys2Proof.Proofs

open Sys2Proof Sys2Proof.Machine Sys2Proof.Reference

/-! ### Single steps -/

/-- Settles O6: a step with a command at the port runs it (`step_command`), and one that decodes is its instruction. -/
theorem stepRunsDecodedCommand : Obligations.StepRunsDecodedCommand := by
  intro s cmd data rest i hport hdecode
  rw [step_command hport, runCommand_ok hdecode]

/-- Settles O7: this is `step_idle`. -/
theorem idleStepKeepsState : Obligations.IdleStepKeepsState := fun _ => step_idle

/-- Settles O8: a word with illegal bits does not decode, and the gate and the error entry are the cases of
`illegalCommand_cases`. -/
theorem illegalWordRaisesIllegalCmd : Obligations.IllegalWordRaisesIllegalCmd := by
  intro s cmd data rest hport hbits
  obtain ⟨e, hdecode⟩ := decode_error_of_illegalBits hbits data
  rw [step_command hport, runCommand_error hdecode]
  rcases illegalCommand_cases { s with port := rest } with ⟨herr, hignored⟩ | ⟨herr, hraised⟩
  · have herr : s.err = true := herr
    rw [hignored, herr, if_pos rfl, ← herr]
    rfl
  · have herr : s.err = false := herr
    rw [hraised, herr, if_neg Bool.false_ne_true]
    rfl

/-- STATUS reads 0 in IDLE with no digest and no error (R34). -/
theorem status_eq_zero {s : State} (hphase : s.phase = .idle) (hdvalid : s.dvalid = false) (herr : s.err = false)
    (hcause : s.cause = .none) : s.status = 0 := by
  simp [State.status, hphase, hdvalid, herr, hcause, Cause.code, Phase.code]

/-- Settles O11: both requests end in `applyReset`, whose fields are those of STATUS 0. -/
theorem resetClearsStatus : Obligations.ResetClearsStatus := by
  refine ⟨⟨rfl, rfl, rfl, rfl, status_eq_zero rfl rfl rfl rfl⟩, fun s rest hport => ?_,
    fun s cmd data rest hport => ?_⟩
  · exact ⟨_, transact_cons hport, rfl, rfl, rfl, rfl, status_eq_zero rfl rfl rfl rfl, rfl⟩
  · exact ⟨_, transact_cons hport, rfl, rfl⟩

/-! ### The table of errors -/

/-- What the effect of FINALIZE leaves as it was. -/
theorem finishMessage_frame {s t : State} (hfinish : finishMessage s = .next t) :
    t = { s with
      h := t.h, digest := t.digest, dp := t.dp, freeCount := t.freeCount, buf := [], phase := .consumed, dvalid := true
      rsp := some 0 } := by
  obtain ⟨-, m, u, -, hpad, rfl⟩ := finishMessage_eq_next.mp hfinish
  rw [respond_consume_serialize_frame hpad]

theorem finishMessage_err {s t : State} (hfinish : finishMessage s = .next t) : t.err = s.err := by
  rw [finishMessage_frame hfinish]

/-- The three ways a command goes, in the order of the gate and the table: ignored, an error, or on to its effect. -/
theorem exec_gate_cases (i : Instr) (s : State) :
    (s.err = true ∧ exempt i = false ∧ exec i s = .next (respond 0 s)) ∨
      (s.err = false ∧ ∃ c, errorOf i s = some c ∧ exec i s = .next (errored c s)) ∨
      ((s.err = false ∨ exempt i = true) ∧ errorOf i s = none) := by
  cases herr : s.err with
  | false =>
    cases hcause : errorOf i s with
    | none => exact .inr (.inr ⟨.inl rfl, rfl⟩)
    | some c => exact .inr (.inl ⟨rfl, c, rfl, exec_of_errorOf herr hcause⟩)
  | true =>
    cases hexempt : exempt i with
    | false => exact .inl ⟨rfl, rfl, exec_of_gated herr hexempt⟩
    | true => exact .inr (.inr ⟨.inr rfl, errorOf_of_exempt hexempt s⟩)

/-- A read that the gate and the table let through answers its value and does nothing else (R56, R190). -/
theorem exec_read_of_errorOf_none {i : Instr} {s : State} (hread : isRead i = true)
    (hlive : s.err = false ∨ exempt i = true) (hnone : errorOf i s = none) :
    exec i s = .next (respond (valueOf i s) s) := by
  have herr (hgated : exempt i = false) : s.err = false := hlive.resolve_right (by simp [hgated])
  cases i with
  | nop => cases hread
  | init => cases hread
  | absorb n d => cases hread
  | finalize => cases hread
  | rdstat => rfl
  | rddig k =>
    obtain ⟨hk, hvalid⟩ := errorOf_rddig_eq_none hnone
    rw [valueOf_rddig s hk, exec_rddig, execRddig_success (herr rfl) hk hvalid]
  | rdh k =>
    obtain ⟨hk, hphase⟩ := errorOf_rdh_eq_none hnone
    rw [valueOf_rdh s hk, exec_rdh, execRdh_success (herr rfl) hk hphase]
  | rdblk half => rw [valueOf_rdblk, exec_rdblk, execRdblk_success (herr rfl) (errorOf_rdblk_eq_none hnone)]
  | rdbuf => rw [valueOf_rdbuf, exec_rdbuf, execRdbuf_success (herr rfl) (errorOf_rdbuf_eq_none hnone)]

/-- What a command does, with ERR = 0, to which the table gives no error: it only responds, with its value, or it is
INIT, ABSORB or FINALIZE and has its effect. -/
theorem exec_effect_of_errorOf_none {i : Instr} {s t : State} (herr : s.err = false) (hnone : errorOf i s = none)
    (hexec : exec i s = .next t) :
    t = respond (valueOf i s) s
      ∨ t = respond 0 (startMessage s)
      ∨ (∃ n d u, i = .absorb n d ∧ absorbBytes (dataBytes n d) s = .next u ∧ t = respond 0 u)
      ∨ finishMessage s = .next t := by
  have read (hread : isRead i = true) : t = respond (valueOf i s) s :=
    Host.Outcome.next.inj (hexec.symm.trans (exec_read_of_errorOf_none hread (.inl herr) hnone))
  cases i with
  | nop => cases hexec; exact .inl rfl
  | init => cases hexec; exact .inr (.inl rfl)
  | absorb n d =>
    obtain ⟨hn, hphase, hlength⟩ := errorOf_absorb_eq_none hnone
    rw [exec_absorb, execAbsorb_success herr hn hphase hlength, andThen_eq_next] at hexec
    obtain ⟨u, habsorb, hcomplete⟩ := hexec
    cases hcomplete
    exact .inr (.inr (.inl ⟨n, d, u, rfl, habsorb, rfl⟩))
  | finalize =>
    rw [exec_finalize, execFinalize_success herr (errorOf_finalize_eq_none hnone)] at hexec
    exact .inr (.inr (.inr hexec))
  | rdstat => exact .inl (read rfl)
  | rddig k => exact .inl (read rfl)
  | rdh k => exact .inl (read rfl)
  | rdblk half => exact .inl (read rfl)
  | rdbuf => exact .inl (read rfl)

theorem exec_err_of_errorOf_none {i : Instr} {s t : State} (herr : s.err = false) (hnone : errorOf i s = none)
    (hexec : exec i s = .next t) : t.err = false := by
  rcases exec_effect_of_errorOf_none herr hnone hexec with rfl | rfl | ⟨n, d, u, -, habsorb, rfl⟩ | hfinish
  · exact herr
  · rfl
  · obtain ⟨-, -, -, huerr, -⟩ := absorbBytes_frame habsorb
    exact huerr.trans herr
  · exact (finishMessage_err hfinish).trans herr

/-- Settles O31: `exec_of_errorOf` for the commands the table gives a cause, `exec_err_of_errorOf_none` for the rest. -/
theorem errorsOfCommands : Obligations.ErrorsOfCommands :=
  ⟨fun _ _ _ => exec_of_errorOf, fun _ _ _ => exec_err_of_errorOf_none⟩

/-! ### Entering the error state -/

/-- A command that sets ERR makes an error entry: no other end of a command writes ERR to 1 (R214). -/
theorem exec_raises {i : Instr} {s t : State} (hexec : exec i s = .next t) (herr : s.err = false)
    (hraised : t.err = true) : ∃ c, c ≠ .none ∧ t = errored c s := by
  have hkept {u : State} (hu : u.err = s.err) : ¬ u.err = true := by simp [hu, herr]
  rcases exec_cases hexec with ⟨hset, -⟩ | ⟨-, herrored⟩ | ⟨w, rfl⟩ | ⟨-, rfl⟩ |
    ⟨-, n, d, -, -, -, -, u, habsorb, rfl⟩ | ⟨-, -, -, hfinish⟩
  · exact absurd hset (hkept rfl)
  · exact herrored
  · exact absurd hraised (hkept rfl)
  · cases hraised
  · obtain ⟨-, -, -, huerr, -⟩ := absorbBytes_frame habsorb
    exact absurd hraised (hkept huerr)
  · exact absurd hraised (hkept (finishMessage_err hfinish))

/-- The same of a command word, decoding or not. -/
theorem runCommand_raises {cmd data : Word} {s t : State} (hrun : runCommand cmd data s = .next t)
    (herr : s.err = false) (hraised : t.err = true) : ∃ c, c ≠ .none ∧ t = errored c s := by
  cases hdecode : decode cmd data with
  | ok i => exact exec_raises (runCommand_ok hdecode s ▸ hrun) herr hraised
  | error e =>
    rw [runCommand_error hdecode, illegalCommand, gated_of_no_err _ herr] at hrun
    cases hrun
    exact ⟨.illegalCmd, by decide, rfl⟩

/-- Settles O32: an idle step keeps ERR, reset clears it, and a command sets it only by an error entry. -/
theorem errorEntryIsPrecise : Obligations.ErrorEntryIsPrecise := by
  intro s t hstep hfaults
  obtain ⟨herr, hraised⟩ : s.err = false ∧ t.err = true := by simpa [faults] using hfaults
  rcases step_cases hstep with ⟨-, hidle⟩ | ⟨cmd, data, rest, hport, hrun⟩ | ⟨q, rest, -, -, hreset⟩
  · cases hidle
    simp [herr] at hraised
  · obtain ⟨c, hcause, rfl⟩ := runCommand_raises hrun.symm herr hraised
    exact ⟨cmd, data, rest, hport, rfl, hcause⟩
  · cases hreset
    cases hraised

/-! ### Staying in the error state -/

theorem execAll_append (as bs : List Instr) (s : State) :
    execAll (as ++ bs) s = andThen (execAll as s) (execAll bs) := by
  induction as generalizing s with
  | nil => rfl
  | cons i as ih =>
    have hrest : execAll (as ++ bs) = fun u => andThen (execAll as u) (execAll bs) := funext ih
    rw [List.cons_append, execAll, execAll, hrest, andThen_assoc]

/-- Commands without INIT keep ERR = 1 (R215). -/
theorem execAll_keeps_err {is : List Instr} {s t : State} (hinit : .init ∉ is) (hrun : execAll is s = .next t)
    (herr : s.err = true) : t.err = true := by
  induction is generalizing s with
  | nil => cases hrun; exact herr
  | cons i is ih =>
    obtain ⟨hi, his⟩ := List.ne_and_not_mem_of_not_mem_cons hinit
    obtain ⟨u, hexec, hrest⟩ := andThen_eq_next.mp hrun
    exact ih his hrest (exec_keeps_err hi.symm hexec herr)

/-- So ERR = 0 at their end shows ERR = 0 at their start. -/
theorem err_false_of_execAll {is : List Instr} {s t : State} (hinit : .init ∉ is) (hrun : execAll is s = .next t)
    (hclear : t.err = false) : s.err = false :=
  Bool.eq_false_iff.mpr fun herr => by simp [execAll_keeps_err hinit hrun herr] at hclear

/-- Settles O34: the run splits in two (`execAll_append`), and ERR = 0 goes back over each part
(`err_false_of_execAll`). -/
theorem errZeroProvesSuccess : Obligations.ErrZeroProvesSuccess := by
  intro as bs s t hinit hrun hclear
  obtain ⟨u, hfirst, hsuffix⟩ := andThen_eq_next.mp (execAll_append as bs s ▸ hrun)
  have hsuffixInit : .init ∉ bs := fun hmem => hinit (List.mem_append_right as hmem)
  exact ⟨err_false_of_execAll hinit hrun hclear, u, hfirst, err_false_of_execAll hsuffixInit hsuffix hclear⟩

end Sys2Proof.Proofs
end

section
/-! Proofs about what commands may write (10_state.md sections 5 and 6) and the three outcomes they have (00_scope.md
R13). -/

namespace Sys2Proof.Proofs

open Sys2Proof Sys2Proof.Machine Sys2Proof.Reference

/-! ### The access table -/

/-- Settles O35: INIT, NOP and RDSTAT end in the one state their equation names; for the other commands each end of
`exec_cases` keeps what its frame lemma says. -/
theorem commandsWriteOnlyTheirState : Obligations.CommandsWriteOnlyTheirState := by
  intro i s t hexec
  by_cases hinit : i = .init
  · subst hinit
    cases hexec
    simp
  have hexempt : i = .nop ∨ i = .rdstat → t.err = s.err ∧ t.cause = s.cause := by
    rintro (rfl | rfl) <;> cases hexec <;> exact ⟨rfl, rfl⟩
  rcases exec_cases hexec with ⟨-, rfl⟩ | ⟨-, c, -, rfl⟩ | ⟨w, rfl⟩ | ⟨hi, -⟩ |
    ⟨-, n, d, rfl, -, -, -, u, habsorb, rfl⟩ | ⟨-, rfl, -, hfinish⟩
  · simp [hinit]
  · exact ⟨rfl, fun _ => rfl, fun _ => ⟨rfl, rfl⟩, hexempt, fun _ => ⟨rfl, rfl⟩, fun _ => ⟨rfl, rfl⟩,
      fun _ => ⟨rfl, rfl⟩, fun hi => absurd hi hinit⟩
  · simp [hinit]
  · exact absurd hi hinit
  · obtain ⟨hdigest, hphase, hdvalid, -, -, hport, -⟩ := absorbBytes_frame habsorb
    simp [hdigest, hphase, hdvalid, hport]
  · rw [finishMessage_frame hfinish]
    simp

/-! ### The writers of PHASE -/

/-- A command moves PHASE in two ways only (R30). -/
theorem exec_phase {i : Instr} {s t : State} (hexec : exec i s = .next t) :
    t.phase = s.phase ∨ (i = .init ∧ t.phase = .active) ∨
      (i = .finalize ∧ s.phase = .active ∧ t.phase = .consumed) := by
  rcases exec_cases hexec with ⟨-, rfl⟩ | ⟨-, c, -, rfl⟩ | ⟨w, rfl⟩ | ⟨rfl, rfl⟩ |
    ⟨-, n, d, -, -, -, -, u, habsorb, rfl⟩ | ⟨-, rfl, hphase, hfinish⟩
  · exact .inl rfl
  · exact .inl rfl
  · exact .inl rfl
  · exact .inr (.inl ⟨rfl, rfl⟩)
  · obtain ⟨-, huphase, -⟩ := absorbBytes_frame habsorb
    exact .inl huphase
  · exact .inr (.inr ⟨rfl, hphase, by rw [finishMessage_frame hfinish]⟩)

/-- The same of a command word: the words of INIT and FINALIZE are the encodings of the two commands. -/
theorem runCommand_phase {cmd data : Word} {s t : State} (hrun : runCommand cmd data s = .next t) :
    t.phase = s.phase ∨ (cmd = 0x10000000#32 ∧ t.phase = .active) ∨
      (cmd = 0x30000000#32 ∧ s.phase = .active ∧ t.phase = .consumed) := by
  cases hdecode : decode cmd data with
  | ok i =>
    obtain ⟨-, hword, -⟩ := encode_of_decode_ok hdecode
    rcases exec_phase (runCommand_ok hdecode s ▸ hrun) with hkept | ⟨rfl, hactive⟩ | ⟨rfl, hmove⟩
    · exact .inl hkept
    · exact .inr (.inl ⟨hword.symm.trans (by decide), hactive⟩)
    · exact .inr (.inr ⟨hword.symm.trans (by decide), hmove⟩)
  | error e =>
    rw [runCommand_error hdecode] at hrun
    rcases illegalCommand_cases s with ⟨-, hend⟩ | ⟨-, hend⟩ <;> cases hend.symm.trans hrun <;> exact .inl rfl

/-- Settles O36: an idle step keeps PHASE, a command moves it as `runCommand_phase` says, and reset sets IDLE. -/
theorem phaseMovesOnlyByItsWriters : Obligations.PhaseMovesOnlyByItsWriters := by
  intro s t hstep hmoved
  rcases step_cases hstep with ⟨-, hidle⟩ | ⟨cmd, data, rest, hport, hrun⟩ | ⟨q, rest, hport, hq, hreset⟩
  · cases hidle
    exact absurd rfl hmoved
  · refine ⟨_, rest, hport, .inr ?_⟩
    rcases runCommand_phase hrun.symm with hkept | ⟨rfl, hactive⟩ | ⟨rfl, hmove⟩
    · exact absurd hkept hmoved
    · exact .inl ⟨hactive, data, rfl⟩
    · exact .inr ⟨hmove.1, hmove.2, data, rfl⟩
  · cases hreset
    exact ⟨q, rest, hport, .inl ⟨rfl, hq⟩⟩

/-! ### Small rules -/

/-- Settles O14: both effects leave BUF without cells, and a FINALIZE that is ignored or raises ends with ERR = 1. -/
theorem unspecifiedBytesHoldNoValue : Obligations.UnspecifiedBytesHoldNoValue := by
  constructor
  · intro s t hexec k
    cases hexec
    rfl
  · intro s t herr hexec hclear k
    rcases execFinalize_cases hexec with ⟨hset, -⟩ | ⟨-, c, -, rfl⟩ | ⟨-, -, hfinish⟩
    · simp [herr] at hset
    · cases hclear
    · rw [finishMessage_frame hfinish, cellRead_nil]

/-- Settles O21: the length of `lengthBits_eq_ofNat` is below 2^64, since BLKCNT has 55 bits. -/
theorem lengthIsExact : Obligations.LengthIsExact := by
  intro s hcount
  have hblocks := s.blkcnt.isLt
  rw [lengthBits_eq_ofNat, BitVec.toNat_ofNat]
  exact Nat.mod_eq_of_lt (by omega)

/-- Where DIGEST holds BE32 of each word of H, the four bytes that RDDIG joins are those of H[I] (R39 (6)). -/
theorem wordBE_eq_of_bytes {h : Vector Word 5} {digest : Vector Byte 20}
    (hbytes : ∀ (i : Fin 5) (k : Fin 4), digest[4 * i.val + k.val] = (h[i]).extractLsb' (24 - 8 * k.val) 8) {i : Nat}
    (hi : i < 5) : wordBE digest[4 * i] digest[4 * i + 1] digest[4 * i + 2] digest[4 * i + 3] = h[i] := by
  have hbyte (k : Nat) (hk : k < 4) : digest[4 * i + k] = h[i].extractLsb' (24 - 8 * k) 8 := hbytes ⟨i, hi⟩ ⟨k, hk⟩
  calc wordBE digest[4 * i] digest[4 * i + 1] digest[4 * i + 2] digest[4 * i + 3]
      = h[i].extractLsb' 0 32 := by
        rw [show digest[4 * i] = _ from hbyte 0 (by decide), hbyte 1 (by decide), hbyte 2 (by decide),
          hbyte 3 (by decide)]
        exact wordBE_extractLsb' _ 0
    _ = h[i] := BitVec.extractLsb'_eq_self

/-- Settles O30: in CONSUMED the invariants make DIGEST valid, so both reads answer H[I] (`wordBE_eq_of_bytes`). -/
theorem rdhEqualsRddigAfterFinalize : Obligations.RdhEqualsRddigAfterFinalize := by
  intro s i hinv hphase herr hi
  have hvalid : s.dvalid = true := hinv.valid_iff_consumed.mpr hphase
  refine ⟨_, execRdh_success herr hi (by simp [hphase]), ?_⟩
  rw [exec_rddig, execRddig_success herr hi hvalid, wordBE_eq_of_bytes (hinv.digest_of_h hvalid) (by omega)]

/-- Settles O45: the formulas bit by bit, by the truth table of the three bits. -/
theorem roundFunctionsSelectAndVote : Obligations.RoundFunctionsSelectAndVote := by
  intro x y z i
  simp only [fCh, fPar, fMaj, BitVec.getLsbD_xor, BitVec.getLsbD_and, BitVec.getLsbD_or]
  cases x.getLsbD i <;> cases y.getLsbD i <;> cases z.getLsbD i <;> decide

end Sys2Proof.Proofs
end

section
/-! Proofs about the three outcomes of a command (00_scope.md R13): where ABSORB and FINALIZE are refused, that nothing
else stops, and which next states are the spec's faults. -/

namespace Sys2Proof.Proofs

open Sys2Proof Sys2Proof.Machine Sys2Proof.Reference

/-! ### Refusals -/

/-- The two grounds of a refusal (log 4, 9). -/
def RefusalGround (s : State) (r : Refusal) : Prop :=
  (r = .bufcntOutOfRange ∧ 64 ≤ s.bufcnt.toNat) ∨
    (r = .bufUnwritten ∧ s.bufcnt.toNat < 64 ∧ ∃ k, k < s.bufcnt.toNat ∧ cellRead s.buf k = none)

/-- The outcome is a next state, or a refusal on one of the grounds: never a fault. -/
def EndsOrRefused (s : State) (r : Result) : Prop :=
  (∃ t, r = .next t) ∨ ∃ f, r = .refused f ∧ RefusalGround s f

/-- A run of bytes that does not read has one that holds no value. -/
theorem exists_unwritten_of_cellReads_none {m : List Host.Cell} {n : Nat} (hnone : cellReads m 0 n = none) :
    ∃ k, k < n ∧ cellRead m k = none := by
  by_contra hall
  push Not at hall
  obtain ⟨bs, hbs⟩ := cellReads_isSome m 0 n fun j hj => by
    simpa [Option.isSome_iff_ne_none] using hall j hj
  simp [hnone] at hbs

theorem flush_outcome (s : State) : (∃ t, flush s = .next t) ∨ flush s = .refused .bufUnwritten := by
  cases hread : cellReads s.buf 0 64 with
  | none => exact .inr (by simp [flush, bufSize, hread])
  | some bytes =>
    obtain ⟨blk, rfl⟩ := exists_block (cellReads_length hread)
    exact .inl ⟨_, flush_eq_next.mpr ⟨blk, hread, rfl⟩⟩

/-- With BUFCNT at most 63 only a byte of BUF without a value stops ABSORB_BYTE. -/
theorem absorbByte_outcome (b : Byte) {s : State} (hopen : s.bufcnt.toNat ≤ 63) :
    (∃ t, absorbByte b s = .next t ∧ t.bufcnt.toNat ≤ 63) ∨ absorbByte b s = .refused .bufUnwritten := by
  rcases Nat.lt_or_eq_of_le hopen with hlt | hlast
  · exact .inl ⟨_, absorbByte_of_lt hlt, by rw [landByte_bufcnt (by omega)]; omega⟩
  · rw [absorbByte_of_eq hlast]
    rcases flush_outcome (landByte b s) with ⟨t, hflush⟩ | hrefused
    · obtain ⟨blk, -, rfl⟩ := flush_eq_next.mp hflush
      exact .inl ⟨_, hflush, Nat.zero_le 63⟩
    · exact .inr hrefused

theorem absorbBytes_outcome (bs : List Byte) {s : State} (hopen : s.bufcnt.toNat ≤ 63) :
    (∃ t, absorbBytes bs s = .next t) ∨ absorbBytes bs s = .refused .bufUnwritten := by
  induction bs generalizing s with
  | nil => exact .inl ⟨s, rfl⟩
  | cons b bs ih =>
    rw [absorbBytes_cons]
    rcases absorbByte_outcome b hopen with ⟨u, hbyte, huopen⟩ | hrefused
    · rw [hbyte, andThen_next]
      exact ih huopen
    · exact .inr (by rw [hrefused, andThen_refused])

/-- Where the buffered bytes read, fewer than 64 bytes are absorbed with no stop: they land, or complete the block once
(`absorbBytes_across`). -/
theorem absorbBytes_of_cellReads {bs m : List Byte} {s : State} (hopen : s.bufcnt.toNat ≤ 63)
    (hshort : bs.length < 64) (hm : cellReads s.buf 0 s.bufcnt.toNat = some m) : ∃ t, absorbBytes bs s = .next t := by
  by_cases hfit : s.bufcnt.toNat + bs.length < 64
  · exact ⟨_, absorbBytes_of_lt hfit⟩
  · obtain ⟨blk, -, habsorb⟩ := absorbBytes_across (front := bs.take (64 - s.bufcnt.toNat))
      (rest := bs.drop (64 - s.bufcnt.toNat)) hopen (by rw [List.length_take]; omega)
      (by rw [List.length_drop]; omega) hm
    rw [List.take_append_drop] at habsorb
    exact ⟨_, habsorb⟩

theorem absorbBytes_endsOrRefused {bs : List Byte} {s : State} (hshort : bs.length < 64) :
    EndsOrRefused s (absorbBytes bs s) := by
  rcases Nat.lt_or_ge s.bufcnt.toNat 64 with hopen | hover
  · cases hread : cellReads s.buf 0 s.bufcnt.toNat with
    | some m => exact .inl (absorbBytes_of_cellReads (by omega) hshort hread)
    | none =>
      refine (absorbBytes_outcome bs (by omega)).imp_right fun hrefused => ⟨_, hrefused, .inr ⟨rfl, hopen, ?_⟩⟩
      exact exists_unwritten_of_cellReads_none hread
  · cases bs with
    | nil => exact .inl ⟨s, rfl⟩
    | cons b bs =>
      have hbyte : absorbByte b s = .refused .bufcntOutOfRange := if_pos hover
      exact .inr ⟨_, by rw [absorbBytes_cons, hbyte, andThen_refused], .inl ⟨rfl, hover⟩⟩

theorem finishMessage_endsOrRefused (s : State) : EndsOrRefused s (finishMessage s) := by
  rcases Nat.lt_or_ge s.bufcnt.toNat 64 with hopen | hover
  · cases hread : cellReads s.buf 0 s.bufcnt.toNat with
    | some m =>
      obtain ⟨u, hpad⟩ := padAndCompress_progress s.lengthBits (m := m) (by rw [cellReads_length hread]; omega) s
      exact .inl ⟨_, finishMessage_eq_next.mpr ⟨hopen, m, u, hread, hpad, rfl⟩⟩
    | none =>
      have hrefused : finishMessage s = .refused .bufUnwritten := by
        rw [finishMessage, if_neg (show ¬ bufSize ≤ s.bufcnt.toNat from Nat.not_le.mpr hopen), hread]
      exact .inr ⟨_, hrefused, .inr ⟨rfl, hopen, exists_unwritten_of_cellReads_none hread⟩⟩
  · exact .inr ⟨_, if_pos hover, .inl ⟨rfl, hover⟩⟩

/-- A command ends in a next state, or it is an ABSORB or a FINALIZE in ACTIVE with ERR = 0 that is refused. -/
theorem exec_next_or_refused (i : Instr) (s : State) :
    (∃ t, exec i s = .next t) ∨
      ∃ f, exec i s = .refused f ∧ s.err = false ∧ s.phase = .active ∧ ((∃ n d, i = .absorb n d) ∨ i = .finalize) ∧
        RefusalGround s f := by
  rcases exec_gate_cases i s with ⟨-, -, hignored⟩ | ⟨-, c, -, herrored⟩ | ⟨hlive, hcause⟩
  · exact .inl ⟨_, hignored⟩
  · exact .inl ⟨_, herrored⟩
  have read (hread : isRead i = true) : ∃ t, exec i s = .next t := ⟨_, exec_read_of_errorOf_none hread hlive hcause⟩
  cases i with
  | nop => exact .inl ⟨_, rfl⟩
  | init => exact .inl ⟨_, rfl⟩
  | absorb n d =>
    obtain ⟨hn, hphase, hlength⟩ := errorOf_absorb_eq_none hcause
    have herr : s.err = false := hlive.resolve_right nofun
    have hshort : (dataBytes n d).length < 64 := by rw [dataBytes_length d hn]; omega
    rw [exec_absorb, execAbsorb_success herr hn hphase hlength]
    rcases absorbBytes_endsOrRefused hshort with ⟨u, habsorb⟩ | ⟨f, hrefused, hground⟩
    · exact .inl ⟨respond 0 u, by rw [habsorb]; rfl⟩
    · exact .inr ⟨f, by rw [hrefused]; rfl, herr, hphase, .inl ⟨n, d, rfl⟩, hground⟩
  | finalize =>
    have hphase := errorOf_finalize_eq_none hcause
    have herr : s.err = false := hlive.resolve_right nofun
    rw [exec_finalize, execFinalize_success herr hphase]
    exact (finishMessage_endsOrRefused s).imp_right fun ⟨f, hrefused, hground⟩ =>
      ⟨f, hrefused, herr, hphase, .inr rfl, hground⟩
  | rdstat => exact .inl (read rfl)
  | rddig k => exact .inl (read rfl)
  | rdh k => exact .inl (read rfl)
  | rdblk half => exact .inl (read rfl)
  | rdbuf => exact .inl (read rfl)

/-! ### Outcomes -/

/-- A command is a fault exactly where the table of errors gives it a cause and the gate is open. -/
theorem contractOutcome_eq_fault (i : Instr) (s : State) (f : Fault) :
    contractOutcome s (exec i s) = .fault f ↔ s.err = false ∧ ∃ c, errorOf i s = some c ∧ f = .callerContract c := by
  constructor
  · intro houtcome
    rcases contractOutcome_cases s (exec i s) with ⟨t, -, -, hout⟩ | ⟨t, hexec, hfaults, hout⟩ | ⟨hstops, hout⟩
    · cases hout.symm.trans houtcome
    · obtain ⟨herr, hraised⟩ : s.err = false ∧ t.err = true := by simpa [faults] using hfaults
      cases hcause : errorOf i s with
      | none => simp [exec_err_of_errorOf_none herr hcause hexec] at hraised
      | some c =>
        cases hexec.symm.trans (exec_of_errorOf herr hcause)
        cases hout.symm.trans houtcome
        exact ⟨herr, c, rfl, rfl⟩
    · rcases exec_next_or_refused i s with ⟨t, hexec⟩ | ⟨g, hrefused, -⟩
      · exact absurd hexec (hstops t)
      · cases hrefused.symm.trans (hout.symm.trans houtcome)
  · rintro ⟨herr, c, hcause, rfl⟩
    rw [exec_of_errorOf herr hcause, contractOutcome, faults_errored, herr]
    rfl

/-- A refusal is the machine's own, on its grounds. -/
theorem contractOutcome_eq_refused {i : Instr} {s : State} {r : Refusal}
    (houtcome : contractOutcome s (exec i s) = .refused r) :
    s.err = false ∧ s.phase = .active ∧ ((∃ n d, i = .absorb n d) ∨ i = .finalize) ∧ RefusalGround s r := by
  rcases contractOutcome_cases s (exec i s) with ⟨t, -, -, hout⟩ | ⟨t, -, -, hout⟩ | ⟨hstops, hout⟩
  · cases hout.symm.trans houtcome
  · cases hout.symm.trans houtcome
  · rcases exec_next_or_refused i s with ⟨t, hexec⟩ | ⟨f, hrefused, hwhere⟩
    · exact absurd hexec (hstops t)
    · cases hrefused.symm.trans (hout.symm.trans houtcome)
      exact hwhere

/-- Under the invariants a step does not stop (`stepNeverStops`), and one that sets ERR is a precise error entry
(`errorEntryIsPrecise`). -/
theorem contractStep_of_inv {s : State} (hinv : s.Inv) :
    (∃ t, contractStep s = .next t ∧ step s = .next t ∧ ¬ (s.err = false ∧ t.err = true))
      ∨ ∃ (c : Cause) (q : Request) (rest : List Request), contractStep s = .fault (.callerContract c)
          ∧ s.err = false ∧ c ≠ .none ∧ s.port = q :: rest
          ∧ step s = .next { s with port := rest, err := true, cause := c, rsp := some 0 } := by
  rcases contractOutcome_cases s (step s) with ⟨t, hstep, hfaults, hout⟩ | ⟨t, hstep, hfaults, hout⟩ | ⟨hstops, -⟩
  · refine .inl ⟨t, hout, hstep, fun ⟨herr, hraised⟩ => ?_⟩
    simp [faults, herr, hraised] at hfaults
  · have herr : s.err = false := by simp [faults] at hfaults; exact hfaults.1
    obtain ⟨cmd, data, rest, hport, hentry, hcause⟩ := errorEntryIsPrecise s t hstep hfaults
    exact .inr ⟨t.cause, _, rest, hout, herr, hcause, hport, hstep.trans (congrArg _ hentry)⟩
  · obtain ⟨t, hstep⟩ := stepNeverStops s hinv
    exact absurd hstep (hstops t)

/-- Settles O50: the three clauses are `contractOutcome_eq_fault`, `contractOutcome_eq_refused` and
`contractStep_of_inv`. -/
theorem threeOutcomesOfCommands : Obligations.ThreeOutcomesOfCommands :=
  ⟨contractOutcome_eq_fault, fun _ _ _ => contractOutcome_eq_refused, fun _ => contractStep_of_inv⟩

end Sys2Proof.Proofs
end

section
/-! Proofs about unspecified state (70_reset_and_hazards.md R242): from two states that agree on what is specified,
every effect gives again two such states. -/

namespace Sys2Proof.Proofs

open Sys2Proof Sys2Proof.Machine Sys2Proof.Reference

/-! ### Updates -/

theorem sameSpecified_withPort {s u : State} (hsame : SameSpecified s u) (port : List Request) :
    SameSpecified { s with port := port } { u with port := port } := { hsame with port_eq := rfl }

theorem sameSpecified_respond {s u : State} (hsame : SameSpecified s u) (w : Word) :
    SameSpecified (respond w s) (respond w u) := { hsame with rsp_eq := rfl }

theorem sameSpecified_errored {s u : State} (hsame : SameSpecified s u) (c : Cause) :
    SameSpecified (errored c s) (errored c u) := { hsame with err_eq := rfl, cause_eq := rfl, rsp_eq := rfl }

/-- INIT writes all that a message reads (R101). -/
theorem sameSpecified_startMessage {s u : State} (hsame : SameSpecified s u) :
    SameSpecified (startMessage s) (startMessage u) where
  phase_eq := rfl
  dvalid_eq := rfl
  err_eq := rfl
  cause_eq := rfl
  port_eq := hsame.port_eq
  rsp_eq := hsame.rsp_eq
  h_eq := fun _ => rfl
  blkcnt_eq := fun _ => rfl
  bufcnt_eq := fun _ => rfl
  buf_eq := fun _ => rfl
  digest_eq := nofun

/-- In IDLE with DVALID = 0 none of the free values of a reset is specified (R240). -/
theorem sameSpecified_applyReset {s u : State} (hsame : SameSpecified s u) :
    SameSpecified (applyReset s) (applyReset u) where
  phase_eq := rfl
  dvalid_eq := rfl
  err_eq := rfl
  cause_eq := rfl
  port_eq := hsame.port_eq
  rsp_eq := rfl
  h_eq := fun hphase => absurd rfl hphase
  blkcnt_eq := fun hphase => absurd rfl hphase
  bufcnt_eq := fun hphase => absurd rfl hphase
  buf_eq := nofun
  digest_eq := nofun

theorem sameSpecified_landByte {s u : State} (hsame : SameSpecified s u) (b : Byte) :
    SameSpecified (landByte b s) (landByte b u) :=
  { hsame with
    bufcnt_eq := fun hphase => congrArg (· + 1) (hsame.bufcnt_eq hphase)
    buf_eq := fun hphase => by
      have hlive : s.phase ≠ .idle := by rw [show s.phase = .active from hphase]; decide
      rw [landByte, landByte, hsame.buf_eq hphase, hsame.bufcnt_eq hlive] }

/-- The flush of a block: COMPRESS reads H and the block only, and leaves no other specified value (R126, R127). -/
theorem sameSpecified_startBlock_compress {s u : State} (hsame : SameSpecified s u) (blk : Block) :
    SameSpecified (startBlock (compress blk s)) (startBlock (compress blk u)) :=
  { hsame with
    h_eq := fun hphase => congrArg (compressH blk) (hsame.h_eq hphase)
    blkcnt_eq := fun hphase => congrArg (· + 1) (hsame.blkcnt_eq hphase)
    bufcnt_eq := fun _ => by simp only [startBlock]
    buf_eq := fun _ => by simp only [startBlock] }

/-! ### Tests and values -/

theorem status_eq_of_sameSpecified {s u : State} (hsame : SameSpecified s u) : s.status = u.status := by
  rw [State.status, State.status, hsame.phase_eq, hsame.dvalid_eq, hsame.err_eq, hsame.cause_eq]

/-- The table of errors tests specified state only: the counters in ACTIVE alone. -/
theorem errorOf_eq_of_sameSpecified {s u : State} (hsame : SameSpecified s u) (i : Instr) :
    errorOf i s = errorOf i u := by
  have hphase := hsame.phase_eq
  cases i with
  | nop => rfl
  | init => rfl
  | absorb n d =>
    by_cases hidle : s.phase = .idle
    · simp [errorOf, ← hphase, hidle]
    · simp [errorOf, ← hphase, hsame.blkcnt_eq hidle, hsame.bufcnt_eq hidle]
  | finalize => simp [errorOf, hphase]
  | rdstat => rfl
  | rddig k => simp [errorOf, hsame.dvalid_eq]
  | rdh k => simp [errorOf, hphase]
  | rdblk half => simp [errorOf, hphase]
  | rdbuf => simp [errorOf, hphase]

/-- A read to which the table gives no error answers a specified value. -/
theorem valueOf_eq_of_sameSpecified {s u : State} (hsame : SameSpecified s u) {i : Instr} (hnone : errorOf i s = none) :
    valueOf i s = valueOf i u := by
  cases i with
  | nop => rfl
  | init => rfl
  | absorb n d => rfl
  | finalize => rfl
  | rdstat => exact status_eq_of_sameSpecified hsame
  | rddig k => simp only [valueOf, hsame.digest_eq (errorOf_rddig_eq_none hnone).2]
  | rdh k => simp only [valueOf, hsame.h_eq (errorOf_rdh_eq_none hnone).2]
  | rdblk half => simp only [valueOf, hsame.blkcnt_eq (errorOf_rdblk_eq_none hnone)]
  | rdbuf => simp only [valueOf, hsame.bufcnt_eq (errorOf_rdbuf_eq_none hnone)]

/-! ### ABSORB and FINALIZE -/

theorem sameSpecified_absorbByte {s u t : State} (hsame : SameSpecified s u) (hphase : s.phase = .active) {b : Byte}
    (hbyte : absorbByte b s = .next t) : ∃ t', absorbByte b u = .next t' ∧ SameSpecified t t' := by
  have hcount : s.bufcnt = u.bufcnt := hsame.bufcnt_eq (by simp [hphase])
  have hland := sameSpecified_landByte hsame b
  rcases absorbByte_cases hbyte with ⟨hlt, rfl⟩ | ⟨hlast, blk, hread, rfl⟩
  · exact ⟨_, absorbByte_of_lt (hcount ▸ hlt), hland⟩
  · rw [hland.buf_eq hphase] at hread
    exact ⟨_, (absorbByte_of_eq (hcount ▸ hlast)).trans (flush_eq_next.mpr ⟨blk, hread, rfl⟩),
      sameSpecified_startBlock_compress hland blk⟩

theorem sameSpecified_absorbBytes {bs : List Byte} {s u t : State} (hsame : SameSpecified s u)
    (hphase : s.phase = .active) (habsorb : absorbBytes bs s = .next t) :
    ∃ t', absorbBytes bs u = .next t' ∧ SameSpecified t t' := by
  induction bs generalizing s u with
  | nil => cases habsorb; exact ⟨u, rfl, hsame⟩
  | cons b bs ih =>
    obtain ⟨v, hbyte, hrest⟩ := andThen_eq_next.mp habsorb
    obtain ⟨v', hbyte', hsame'⟩ := sameSpecified_absorbByte hsame hphase hbyte
    obtain ⟨-, hvphase, -⟩ := absorbByte_frame hbyte
    obtain ⟨t', hrest', hend⟩ := ih hsame' (hvphase.trans hphase) hrest
    exact ⟨t', andThen_eq_next.mpr ⟨v', hbyte', hrest'⟩, hend⟩

/-- The padding compressions read H and their blocks only. -/
theorem padAndCompress_congr {len : BitVec 64} {m : List Byte} {s u v : State} (hh : s.h = u.h)
    (hpad : padAndCompress len m s = .next v) : ∃ v', padAndCompress len m u = .next v' ∧ v.h = v'.h := by
  unfold padAndCompress at hpad ⊢
  split at hpad
  · next hone =>
    obtain ⟨blk, hblk, rfl⟩ := compressBytes_eq_next.mp hpad
    rw [if_pos hone]
    exact ⟨_, compressBytes_eq_next.mpr ⟨blk, hblk, rfl⟩, congrArg (compressH blk) hh⟩
  · next htwo =>
    obtain ⟨w, hfirst, hsecond⟩ := andThen_eq_next.mp hpad
    obtain ⟨p1, hp1, rfl⟩ := compressBytes_eq_next.mp hfirst
    obtain ⟨p2, hp2, rfl⟩ := compressBytes_eq_next.mp hsecond
    rw [if_neg htwo]
    exact ⟨_, andThen_eq_next.mpr ⟨_, compressBytes_eq_next.mpr ⟨p1, hp1, rfl⟩,
      compressBytes_eq_next.mpr ⟨p2, hp2, rfl⟩⟩, congrArg (fun h => compressH p2 (compressH p1 h)) hh⟩

theorem sameSpecified_finishMessage {s u t : State} (hsame : SameSpecified s u) (hphase : s.phase = .active)
    (hfinish : finishMessage s = .next t) : ∃ t', finishMessage u = .next t' ∧ SameSpecified t t' := by
  have hlive : s.phase ≠ .idle := by simp [hphase]
  obtain ⟨hopen, m, v, hread, hpad, rfl⟩ := finishMessage_eq_next.mp hfinish
  have hlength : s.lengthBits = u.lengthBits := by
    rw [State.lengthBits, State.lengthBits, hsame.blkcnt_eq hlive, hsame.bufcnt_eq hlive]
  rw [hlength] at hpad
  rw [hsame.bufcnt_eq hlive] at hopen hread
  rw [hsame.buf_eq hphase] at hread
  obtain ⟨v', hpad', hh⟩ := padAndCompress_congr (hsame.h_eq hlive) hpad
  refine ⟨_, finishMessage_eq_next.mpr ⟨hopen, m, v', hread, hpad', rfl⟩, ?_⟩
  rw [respond_consume_serialize_frame hpad, respond_consume_serialize_frame hpad']
  exact {
    phase_eq := rfl
    dvalid_eq := rfl
    err_eq := hsame.err_eq
    cause_eq := hsame.cause_eq
    port_eq := hsame.port_eq
    rsp_eq := rfl
    h_eq := fun _ => hh
    blkcnt_eq := fun _ => hsame.blkcnt_eq hlive
    bufcnt_eq := fun _ => hsame.bufcnt_eq hlive
    buf_eq := nofun
    digest_eq := fun _ => congrArg digestOf hh }

/-! ### Commands and steps -/

theorem sameSpecified_exec {i : Instr} {s u t : State} (hsame : SameSpecified s u) (hexec : exec i s = .next t) :
    ∃ t', exec i u = .next t' ∧ SameSpecified t t' := by
  have herr := hsame.err_eq
  have htable := errorOf_eq_of_sameSpecified hsame i
  rcases exec_gate_cases i s with ⟨hset, hexempt, hignored⟩ | ⟨hclear, c, hcause, herrored⟩ | ⟨hlive, hnone⟩
  · cases hignored.symm.trans hexec
    exact ⟨_, exec_of_gated (herr ▸ hset) hexempt, sameSpecified_respond hsame 0⟩
  · cases herrored.symm.trans hexec
    exact ⟨_, exec_of_errorOf (herr ▸ hclear) (htable ▸ hcause), sameSpecified_errored hsame c⟩
  have read (hread : isRead i = true) : ∃ t', exec i u = .next t' ∧ SameSpecified t t' := by
    cases (exec_read_of_errorOf_none hread hlive hnone).symm.trans hexec
    exact ⟨_, exec_read_of_errorOf_none hread (herr ▸ hlive) (htable ▸ hnone),
      valueOf_eq_of_sameSpecified hsame hnone ▸ sameSpecified_respond hsame (valueOf i s)⟩
  cases i with
  | nop => cases hexec; exact ⟨_, rfl, sameSpecified_respond hsame 0⟩
  | init => cases hexec; exact ⟨_, rfl, sameSpecified_respond (sameSpecified_startMessage hsame) 0⟩
  | absorb n d =>
    have hclear : s.err = false := hlive.resolve_right nofun
    obtain ⟨hn, hphase, hlength⟩ := errorOf_absorb_eq_none hnone
    obtain ⟨-, hphase', hlength'⟩ := errorOf_absorb_eq_none (htable ▸ hnone)
    rw [exec_absorb, execAbsorb_success hclear hn hphase hlength] at hexec
    obtain ⟨v, habsorb, hcomplete⟩ := andThen_eq_next.mp hexec
    cases hcomplete
    obtain ⟨v', habsorb', hend⟩ := sameSpecified_absorbBytes hsame hphase habsorb
    exact ⟨_, exec_absorb_of_absorbBytes (herr ▸ hclear) hphase' hn hlength' habsorb', sameSpecified_respond hend 0⟩
  | finalize =>
    have hclear : s.err = false := hlive.resolve_right nofun
    have hphase := errorOf_finalize_eq_none hnone
    rw [exec_finalize, execFinalize_success hclear hphase] at hexec
    rw [exec_finalize, execFinalize_success (herr ▸ hclear) (hsame.phase_eq ▸ hphase)]
    exact sameSpecified_finishMessage hsame hphase hexec
  | rdstat => exact read rfl
  | rddig k => exact read rfl
  | rdh k => exact read rfl
  | rdblk half => exact read rfl
  | rdbuf => exact read rfl

theorem sameSpecified_runCommand {cmd data : Word} {s u t : State} (hsame : SameSpecified s u)
    (hrun : runCommand cmd data s = .next t) : ∃ t', runCommand cmd data u = .next t' ∧ SameSpecified t t' := by
  cases hdecode : decode cmd data with
  | ok i =>
    rw [runCommand_ok hdecode] at hrun ⊢
    exact sameSpecified_exec hsame hrun
  | error e =>
    rw [runCommand_error hdecode] at hrun ⊢
    rcases illegalCommand_cases s with ⟨hset, hignored⟩ | ⟨hclear, hraised⟩
    · cases hignored.symm.trans hrun
      exact ⟨_, gated_of_err _ (hsame.err_eq ▸ hset), sameSpecified_respond hsame 0⟩
    · cases hraised.symm.trans hrun
      exact ⟨_, gated_of_no_err _ (hsame.err_eq ▸ hclear), sameSpecified_errored hsame .illegalCmd⟩

/-- Settles O41: the two ports hold the same requests, so both steps are idle, both run the same command, or both
reset. -/
theorem unspecifiedStateNeverSeen : Obligations.UnspecifiedStateNeverSeen := by
  intro s u t hsame hstep
  have hports := hsame.port_eq
  rcases step_cases hstep with ⟨hport, hidle⟩ | ⟨cmd, data, rest, hport, hrun⟩ | ⟨q, rest, hport, hq, hreset⟩
  · cases hidle
    exact ⟨u, step_idle (hports ▸ hport), hsame⟩
  · obtain ⟨t', hrun', hend⟩ := sameSpecified_runCommand (sameSpecified_withPort hsame rest) hrun.symm
    exact ⟨t', (step_command (hports ▸ hport)).trans hrun', hend⟩
  · cases hreset
    refine ⟨_, ?_, sameSpecified_applyReset (sameSpecified_withPort hsame rest)⟩
    rw [step, transact_cons (hports ▸ hport)]
    rcases hq with rfl | ⟨cmd, data, rfl⟩ <;> rfl

end Sys2Proof.Proofs
end

section
/-! Proofs about the compressor's loop (41_compressor.md sections 2 to 5): the window holds the logical schedule, and so
the machine's rounds are the rounds over 80 words, in place or not. -/

namespace Sys2Proof.Proofs

open Sys2Proof Sys2Proof.Machine Sys2Proof.Reference

/-! ### The logical schedule -/

/-- Place k of the words below t, newest first, holds W_{t-1-k}. -/
theorem scheduleBelow_getD (blk : Block) {t k : Nat} (hk : k < t) :
    (scheduleBelow blk t).getD k 0 = scheduleWord blk (t - 1 - k) := by
  induction t generalizing k with
  | zero => cases hk
  | succ t ih =>
    cases k with
    | zero => rfl
    | succ k =>
      have hplace : t + 1 - 1 - (k + 1) = t - 1 - k := by omega
      rw [hplace, ← ih (by omega)]
      rfl

/-- W_t for t < 16 is word t of the block (R113). -/
theorem scheduleWord_of_lt (blk : Block) {t : Nat} (ht : t < 16) : scheduleWord blk t = blockWord blk t := by
  simp [scheduleWord, scheduleBelow, ht]

/-- The recurrence of R113. -/
theorem scheduleWord_of_ge (blk : Block) {t : Nat} (ht : 16 ≤ t) :
    scheduleWord blk t = (scheduleWord blk (t - 3) ^^^ scheduleWord blk (t - 8) ^^^ scheduleWord blk (t - 14)
      ^^^ scheduleWord blk (t - 16)).rotateLeft 1 := by
  have hplace (k : Nat) (hk : k < t) := scheduleBelow_getD blk hk
  have hhead : scheduleWord blk t = ((scheduleBelow blk t).getD 2 0 ^^^ (scheduleBelow blk t).getD 7 0
      ^^^ (scheduleBelow blk t).getD 13 0 ^^^ (scheduleBelow blk t).getD 15 0).rotateLeft 1 := by
    rw [scheduleWord, scheduleBelow, List.headD_cons, if_neg (Nat.not_lt.mpr ht)]
  rw [hhead, hplace 2 (by omega), hplace 7 (by omega), hplace 13 (by omega), hplace 15 (by omega)]
  rfl

/-! ### The window -/

/-- The window holds W_u in slot u mod 16, for the sixteen u below max(16, n). -/
def WindowHolds (blk : Block) (n : Nat) (w : Vector Word 16) : Prop :=
  ∀ u, u < max 16 n → max 16 n ≤ u + 16 → w[slot u] = scheduleWord blk u

/-- LOAD's words are the first sixteen of the schedule (R110, R113). -/
theorem windowHolds_load (blk : Block) : WindowHolds blk 0 (load blk) := by
  intro u hu _
  have hu : u < 16 := by simpa using hu
  have hslot : slot u = ⟨u, hu⟩ := Fin.ext (Nat.mod_eq_of_lt hu)
  rw [scheduleWord_of_lt blk hu, load_getElem, hslot, loadWord, wordBE_eq_append, blockWord,
    getElem?_pos blk (4 * u) (by omega), getElem?_pos blk (4 * u + 1) (by omega),
    getElem?_pos blk (4 * u + 2) (by omega), getElem?_pos blk (4 * u + 3) (by omega)]
  rfl

/-- The turns before round 16 leave the window, and up to there it holds the first sixteen words. -/
theorem windowHolds_of_le {blk : Block} {n : Nat} {w : Vector Word 16} (hw : WindowHolds blk n w) (hn : n < 16) :
    WindowHolds blk (n + 1) w := by
  have hmax : max 16 (n + 1) = max 16 n := by omega
  rwa [WindowHolds, hmax]

/-- EXPAND(n) puts W_n in the place of W_{n-16}, the oldest word (R112, R113). -/
theorem windowHolds_expand {blk : Block} {n : Nat} {w : Vector Word 16} (hw : WindowHolds blk n w) (hfirst : 16 ≤ n)
    (hlast : n < 80) : WindowHolds blk (n + 1) (expand n w) := by
  intro u hu hwindow
  refine (expandWritesOneSlot n w (slot u) hfirst (by omega)).trans ?_
  by_cases hnew : u = n
  · subst hnew
    have hold (k : Nat) (hk : 1 ≤ k) (hk' : k ≤ 16) : w[slot (u - k)] = scheduleWord blk (u - k) :=
      hw (u - k) (by omega) (by omega)
    have hoverwritten : slot u = slot (u - 16) := slot_add_eq_sub (m := 0) rfl hfirst
    have holdest : w[slot u] = scheduleWord blk (u - 16) :=
      (congrArg (fun j : Fin 16 => w[j]) hoverwritten).trans (hold 16 (by decide) (by decide))
    rw [if_pos (show (slot u).val = u % 16 from rfl), scheduleWord_of_ge blk hfirst,
      ← hold 3 (by decide) (by decide), ← hold 8 (by decide) (by decide), ← hold 14 (by decide) (by decide), ← holdest]
    rfl
  · have hslot : ¬ (slot u).val = n % 16 := by
      simp only [slot]
      omega
    rw [if_neg hslot]
    exact hw u (by omega) (by omega)

/-! ### One turn of the loop -/

/-- The datapath that ROUND(t) works on: after EXPAND(t) where t >= 16 (R126). -/
def expanded (t : Nat) (p : Datapath) : Datapath := if 16 ≤ t then { p with w := expand t p.w } else p

theorem turn_eq_roundStep (t : Nat) (p : Datapath) : turn t p = roundStep t (expanded t p) := rfl

theorem windowHolds_expanded {blk : Block} {n : Nat} {p : Datapath} (hw : WindowHolds blk n p.w) (hn : n < 80) :
    WindowHolds blk (n + 1) (expanded n p).w := by
  unfold expanded
  split
  · next hfirst => exact windowHolds_expand hw hfirst hn
  · next hbefore => exact windowHolds_of_le hw (by omega)

/-- After n turns the window holds the schedule up to max(16, n). -/
theorem windowHolds_advances (blk : Block) (h : Vector Word 5) {n : Nat} (hn : n ≤ 80) :
    WindowHolds blk n (advances n (startDatapath blk h)).w := by
  induction n with
  | zero => exact windowHolds_load blk
  | succ n ih =>
    rw [advances_start_succ blk h (by omega)]
    exact windowHolds_expanded (ih (by omega)) (by omega)

/-- Settles O47: RC counts the turns, and the window is `windowHolds_advances`. -/
theorem windowHoldsSchedule : Obligations.WindowHoldsSchedule := by
  intro blk h n u hn hu hwindow
  have hrc : (advances n (startDatapath blk h)).rc.val = 0 + n := advances_rc (by simpa [startDatapath] using hn)
  exact ⟨hrc.trans (Nat.zero_add n), windowHolds_advances blk h hn u hu hwindow⟩

/-! ### The working variables -/

/-- A, B, C, D, E of the datapath. -/
def datapathVars (p : Datapath) : Vars := { a := p.a, b := p.b, c := p.c, d := p.d, e := p.e }

theorem datapathVars_expanded (t : Nat) (p : Datapath) : datapathVars (expanded t p) = datapathVars p := by
  unfold expanded
  split <;> rfl

/-- Turn n is ROUND(n) on the variables of the n turns before, and the word it reads is W_n. -/
theorem exists_roundStep_of_advances (blk : Block) (h : Vector Word 5) {n : Nat} (hn : n < 80) :
    ∃ q, datapathVars q = datapathVars (advances n (startDatapath blk h)) ∧ q.w[slot n] = scheduleWord blk n ∧
      datapathVars (advances (n + 1) (startDatapath blk h)) = datapathVars (roundStep n q) := by
  refine ⟨expanded n (advances n (startDatapath blk h)), datapathVars_expanded _ _, ?_, ?_⟩
  · exact windowHolds_expanded (windowHolds_advances blk h (by omega)) hn n (by omega) (by omega)
  · rw [advances_start_succ blk h hn, turn_eq_roundStep]
    rfl

/-- The machine's variables after n turns are those of n rounds over the logical schedule. -/
theorem datapathVars_advances (blk : Block) (h : Vector Word 5) {n : Nat} (hn : n ≤ 80) :
    datapathVars (advances n (startDatapath blk h)) = varsAfter (scheduleWord blk) h n := by
  induction n with
  | zero => rfl
  | succ n ih =>
    obtain ⟨q, hvars, hword, hturn⟩ := exists_roundStep_of_advances blk h (n := n) (by omega)
    rw [hturn, varsAfter, ← ih (by omega), ← hvars, ← hword, roundRotatesVariables n q (by omega)]
    rfl

theorem feedForward_of_datapathVars {p : Datapath} {v : Vars} (h : Vector Word 5) (hvars : datapathVars p = v) :
    feedForward h p = #v[h[0] + v.a, h[1] + v.b, h[2] + v.c, h[3] + v.d, h[4] + v.e] := by
  subst hvars
  rfl

/-- Settles O48: both feed forward the same variables (`datapathVars_advances`). -/
theorem compressFollowsLogicalSchedule : Obligations.CompressFollowsLogicalSchedule := by
  intro blk h
  rw [compressH, compressLogical, feedForward_of_datapathVars h (datapathVars_advances blk h (Nat.le_refl 80))]

/-! ### The in-place round -/

/-- The roles turn by one register a round: what was role k is role k + 1 (R121). -/
theorem roleReg_succ (k t : Nat) : roleReg (k + 1) (t + 1) = roleReg k t :=
  Fin.ext (by simp only [roleReg]; omega)

/-- The register of e takes the role of a. -/
theorem roleReg_zero_succ (t : Nat) : roleReg 0 (t + 1) = roleReg 4 t :=
  Fin.ext (by simp only [roleReg]; omega)

theorem roleReg_ne {k l : Nat} (t : Nat) (hk : k < 5) (hl : l < 5) (hne : k ≠ l) :
    (roleReg k t).val ≠ (roleReg l t).val := by
  simp only [roleReg]
  omega

/-- The in-place round writes the registers of roles e and b only. -/
theorem inPlaceRound_getElem (t : Nat) (w : Word) (v : Vector Word 5) {k : Nat} (hk : k < 5) :
    (inPlaceRound t w v)[roleReg k t] =
      if k = 1 then v[roleReg 1 t].rotateLeft 30
      else if k = 4 then v[roleReg 4 t] + v[roleReg 0 t].rotateLeft 5
        + stageF t v[roleReg 1 t] v[roleReg 2 t] v[roleReg 3 t] + stageK t + w
      else v[roleReg k t] := by
  simp only [inPlaceRound, Fin.getElem_fin, Vector.getElem_set]
  by_cases hb : k = 1
  · subst hb
    simp
  by_cases he : k = 4
  · subst he
    simp [roleReg_ne t (show 1 < 5 by decide) (show 4 < 5 by decide) (by decide)]
  · simp [hb, he, roleReg_ne t (show 1 < 5 by decide) hk (Ne.symm hb),
      roleReg_ne t (show 4 < 5 by decide) hk (Ne.symm he)]

/-- One in-place round is ROUND on registers in their roles. -/
theorem inRoles_inPlaceRound {t : Nat} {v : Vector Word 5} {p : Datapath} (ht : t < 80) (hroles : InRoles t v p) :
    InRoles (t + 1) (inPlaceRound t p.w[slot t] v) (roundStep t p) := by
  obtain ⟨ha, hb, hc, hd, he⟩ := hroles
  have hreg (k : Nat) (hk : k < 5) := inPlaceRound_getElem t p.w[slot t] v hk
  rw [roundRotatesVariables t p ht, InRoles]
  simp only [roleReg_zero_succ, roleReg_succ 0, roleReg_succ 1, roleReg_succ 2, roleReg_succ 3]
  rw [hreg 0 (by decide), hreg 1 (by decide), hreg 2 (by decide), hreg 3 (by decide), hreg 4 (by decide),
    ha, hb, hc, hd, he]
  refine ⟨?_, rfl, rfl, rfl, rfl⟩
  have hsum : p.e + p.a.rotateLeft 5 + stageF t p.b p.c p.d = p.a.rotateLeft 5 + stageF t p.b p.c p.d + p.e := by ac_rfl
  exact congrArg (· + stageK t + p.w[slot t]) hsum

theorem inRoles_of_datapathVars_eq {t : Nat} {v : Vector Word 5} {p q : Datapath}
    (hvars : datapathVars p = datapathVars q) (hroles : InRoles t v p) : InRoles t v q := by
  obtain ⟨ha, hb, hc, hd, he⟩ := Vars.mk.inj hvars
  rwa [InRoles, ← ha, ← hb, ← hc, ← hd, ← he]

/-- After n in-place rounds the registers hold the variables of n turns, in the roles of round n. -/
theorem inRoles_advances (blk : Block) (h : Vector Word 5) {n : Nat} (hn : n ≤ 80) :
    InRoles n (inPlaceAfter (scheduleWord blk) h n) (advances n (startDatapath blk h)) := by
  induction n with
  | zero => exact ⟨rfl, rfl, rfl, rfl, rfl⟩
  | succ n ih =>
    obtain ⟨q, hvars, hword, hturn⟩ := exists_roundStep_of_advances blk h (n := n) (by omega)
    have hround := inRoles_inPlaceRound (by omega) (inRoles_of_datapathVars_eq hvars.symm (ih (by omega)))
    rw [hword] at hround
    exact inRoles_of_datapathVars_eq hturn.symm hround

/-- In round 80, as in round 0, the roles are the registers in order, so FEEDFWD adds register by register. -/
theorem feedForward_of_inRoles {h v : Vector Word 5} {p : Datapath} (hroles : InRoles 80 v p) (j : Fin 5) :
    (feedForward h p)[j] = h[j] + v[j] := by
  obtain ⟨ha, hb, hc, hd, he⟩ := hroles
  rw [feedForward, ← ha, ← hb, ← hc, ← hd, ← he]
  fin_cases j <;> rfl

/-- Settles O49: the round, its induction over the turns, and the feed-forward of the last. -/
theorem inPlaceRoundsAgree : Obligations.InPlaceRoundsAgree :=
  ⟨fun _ _ _ => inRoles_inPlaceRound, fun blk h _ => inRoles_advances blk h,
    fun blk h j => feedForward_of_inRoles (inRoles_advances blk h (Nat.le_refl 80)) j⟩

end Sys2Proof.Proofs
end

section
/-! Proofs about the byte stream (20_memory.md sections 1 and 2): a sequence of ABSORBs does what ABSORB_BYTE of its
bytes does, but for the response port, so how the bytes are split does not matter. -/

namespace Sys2Proof.Proofs

open Sys2Proof Sys2Proof.Machine Sys2Proof.Reference

/-! ### The response port -/

/-- `s` with the response port set. -/
def withRsp (r : Option Word) (s : State) : State := { s with rsp := r }

theorem respond_eq_withRsp (w : Word) (s : State) : respond w s = withRsp (some w) s := rfl

@[simp] theorem withRsp_withRsp (r r' : Option Word) (s : State) : withRsp r (withRsp r' s) = withRsp r s := rfl

/-- ABSORB_BYTE does not look at the response port. -/
theorem absorbByte_withRsp {b : Byte} {s t : State} (r : Option Word) (hbyte : absorbByte b s = .next t) :
    absorbByte b (withRsp r s) = .next (withRsp r t) := by
  rcases absorbByte_cases hbyte with ⟨hlt, rfl⟩ | ⟨hlast, blk, hread, rfl⟩
  · exact absorbByte_of_lt (s := withRsp r s) hlt
  · exact (absorbByte_of_eq (s := withRsp r s) hlast).trans (flush_eq_next.mpr ⟨blk, hread, rfl⟩)

theorem absorbBytes_withRsp {bs : List Byte} {s t : State} (r : Option Word) (habsorb : absorbBytes bs s = .next t) :
    absorbBytes bs (withRsp r s) = .next (withRsp r t) := by
  induction bs generalizing s with
  | nil => cases habsorb; rfl
  | cons b bs ih =>
    obtain ⟨u, hbyte, hrest⟩ := andThen_eq_next.mp habsorb
    exact andThen_eq_next.mpr ⟨withRsp r u, absorbByte_withRsp r hbyte, ih hrest⟩

/-! ### The length of the message -/

/-- ABSORB_BYTE makes the message one byte longer: the byte is counted in BUFCNT, or BLKCNT takes over 64 (R151). -/
theorem absorbByte_messageBytes {b : Byte} {s t : State} (hbyte : absorbByte b s = .next t)
    (hlimit : s.messageBytes + 1 < 2 ^ 61) : t.messageBytes = s.messageBytes + 1 := by
  simp only [State.messageBytes] at hlimit ⊢
  rcases absorbByte_cases hbyte with ⟨hlt, rfl⟩ | ⟨hlast, blk, -, rfl⟩
  · rw [landByte_bufcnt (by omega)]
    simp only [landByte]
    omega
  · have hblocks : (s.blkcnt + 1).toNat = s.blkcnt.toNat + 1 := blkcnt_succ (by omega)
    simp only [startBlock_blkcnt, startBlock_bufcnt_toNat, compress_blkcnt, landByte, hblocks]
    omega

theorem absorbBytes_messageBytes {bs : List Byte} {s t : State} (habsorb : absorbBytes bs s = .next t)
    (hlimit : s.messageBytes + bs.length < 2 ^ 61) : t.messageBytes = s.messageBytes + bs.length := by
  induction bs generalizing s with
  | nil => cases habsorb; rfl
  | cons b bs ih =>
    rw [List.length_cons] at hlimit ⊢
    obtain ⟨u, hbyte, hrest⟩ := andThen_eq_next.mp habsorb
    have hcount := absorbByte_messageBytes hbyte (by omega)
    rw [ih hrest (by omega), hcount]
    omega

/-! ### Sequences of ABSORBs -/

/-- One command carries the bytes it takes (R73). -/
theorem bytesOf_cons {n : BitVec 3} {data : Word} (cs : List (BitVec 3 × Word)) (hn : n.toNat ≤ 4) :
    bytesOf ((n, data) :: cs) = dataBytes n data ++ bytesOf cs := by
  rw [dataBytes_eq_map data hn]
  rfl

theorem init_not_mem_absorbAll (cs : List (BitVec 3 × Word)) : .init ∉ absorbAll cs := by
  simp [absorbAll]

/-- ABSORBs that end with ERR = 0 have done what ABSORB_BYTE of their bytes does. -/
theorem absorbBytes_of_execAll {cs : List (BitVec 3 × Word)} {s t : State}
    (hrun : execAll (absorbAll cs) s = .next t) (hclear : t.err = false) :
    ∃ u, absorbBytes (bytesOf cs) s = .next u ∧ t = withRsp t.rsp u := by
  induction cs generalizing s with
  | nil => cases hrun; exact ⟨_, rfl, rfl⟩
  | cons c cs ih =>
    obtain ⟨n, data⟩ := c
    obtain ⟨v, hexec, hrest⟩ := andThen_eq_next.mp hrun
    have hvclear : v.err = false := err_false_of_execAll (init_not_mem_absorbAll cs) hrest hclear
    rcases execAbsorb_cases hexec with ⟨hset, rfl⟩ | ⟨-, c, -, rfl⟩ | ⟨-, hn, -, -, u, hfirst, rfl⟩
    · simp [hset] at hvclear
    · cases hvclear
    · obtain ⟨w, habsorb, hend⟩ := ih hrest
      rw [bytesOf_cons cs hn, absorbBytes_append, hfirst]
      have hignored := absorbBytes_withRsp u.rsp habsorb
      exact ⟨withRsp u.rsp w, hignored, hend⟩

/-- Where ABSORB_BYTE of their bytes completes, in ACTIVE with ERR = 0 and below the length limit, ABSORBs complete,
and any of them leaves the response 0. -/
theorem execAll_of_absorbBytes {cs : List (BitVec 3 × Word)} {s u : State} (herr : s.err = false)
    (hphase : s.phase = .active) (hcs : ∀ c ∈ cs, c.1.toNat ≤ 4)
    (hlimit : s.messageBytes + (bytesOf cs).length < 2 ^ 61) (habsorb : absorbBytes (bytesOf cs) s = .next u) :
    ∃ r, execAll (absorbAll cs) s = .next (withRsp r u) ∧ (cs ≠ [] → r = some 0) := by
  induction cs generalizing s u with
  | nil => cases habsorb; exact ⟨s.rsp, rfl, fun hne => absurd rfl hne⟩
  | cons c cs ih =>
    obtain ⟨n, data⟩ := c
    obtain ⟨hn, hcs⟩ : n.toNat ≤ 4 ∧ ∀ c ∈ cs, c.1.toNat ≤ 4 := List.forall_mem_cons.mp hcs
    have hlength := dataBytes_length data hn
    rw [bytesOf_cons cs hn, List.length_append] at hlimit
    rw [bytesOf_cons cs hn, absorbBytes_append] at habsorb
    obtain ⟨v, hfirst, hrest⟩ := andThen_eq_next.mp habsorb
    have hexec : exec (.absorb n data) s = .next (respond 0 v) :=
      exec_absorb_of_absorbBytes herr hphase hn (by omega) hfirst
    obtain ⟨-, hvphase, -, hverr, -⟩ := absorbBytes_frame hfirst
    have hcount : (respond 0 v).messageBytes = s.messageBytes + (dataBytes n data).length :=
      absorbBytes_messageBytes (t := v) hfirst (by omega)
    obtain ⟨r, hrun, hr⟩ := ih (s := respond 0 v) (u := withRsp (some 0) u) (hverr.trans herr) (hvphase.trans hphase)
      hcs (by omega) (absorbBytes_withRsp (some 0) hrest)
    refine ⟨r, andThen_eq_next.mpr ⟨_, hexec, hrun⟩, fun _ => ?_⟩
    cases cs with
    | nil => exact (congrArg State.rsp (Host.Outcome.next.inj hrun)).symm
    | cons c cs => exact hr (List.cons_ne_nil c cs)

/-- Settles O18: both sequences do what ABSORB_BYTE of the same bytes does (`absorbBytes_of_execAll`). -/
theorem partitionsAgree : Obligations.PartitionsAgree := by
  intro s t u cs ds hbytes hcs hds htclear huclear
  obtain ⟨v, habsorb, ht⟩ := absorbBytes_of_execAll hcs htclear
  obtain ⟨v', habsorb', hu⟩ := absorbBytes_of_execAll hds huclear
  rw [hbytes] at habsorb
  cases habsorb.symm.trans habsorb'
  calc withRsp none t = withRsp none v := by rw [ht, withRsp_withRsp]
    _ = withRsp none u := by rw [hu, withRsp_withRsp]

/-- The data word that carries one byte, on top. -/
def topByte (b : Byte) : Word := b.setWidth 32 <<< 24

theorem dataBytes_topByte (b : Byte) : dataBytes 1 (topByte b) = [b] := by
  have htop : wordByte (topByte b) 0 = b := by
    apply BitVec.eq_of_getLsbD_eq
    intro i hi
    simp [wordByte, topByte, hi, show i < 32 by omega]
    omega
  rw [dataBytes_eq_map _ (by decide)]
  exact congrArg (fun x => [x]) htop

/-- One-byte ABSORBs of the bytes of a list. -/
def singles (bs : List Byte) : List (BitVec 3 × Word) := bs.map fun b => (1, topByte b)

theorem bytesOf_singles (bs : List Byte) : bytesOf (singles bs) = bs := by
  induction bs with
  | nil => rfl
  | cons b bs ih =>
    have hrest := bytesOf_cons (n := 1) (data := topByte b) (singles bs) (by decide)
    rw [dataBytes_topByte, ih] at hrest
    exact hrest

/-- Settles O17: an ABSORB without error absorbs its bytes, and so do one-byte ABSORBs of them
(`execAll_of_absorbBytes`). -/
theorem absorbSplitsIntoSingleBytes : Obligations.AbsorbSplitsIntoSingleBytes := by
  intro s t n data hone hexec hclear
  rcases execAbsorb_cases hexec with ⟨hset, rfl⟩ | ⟨-, c, -, rfl⟩ | ⟨herr, hn, hphase, hlimit, u, habsorb, rfl⟩
  · simp [hset] at hclear
  · cases hclear
  · have hlength := dataBytes_length data hn
    have hbytes := bytesOf_singles (dataBytes n data)
    have hsmall : ∀ c ∈ singles (dataBytes n data), c.1.toNat ≤ 4 := by simp [singles]
    obtain ⟨r, hrun, hr⟩ := execAll_of_absorbBytes (cs := singles (dataBytes n data)) herr hphase hsmall
      (by rw [hbytes]; omega) (by rw [hbytes]; exact habsorb)
    have hne : singles (dataBytes n data) ≠ [] := by
      rw [singles, ne_eq, List.map_eq_nil_iff, ← List.length_eq_zero_iff]
      omega
    have hlist : absorbAll (singles (dataBytes n data)) = (List.range n.toNat).map fun k =>
        .absorb 1 ((data.extractLsb' (24 - 8 * k) 8).setWidth 32 <<< 24) := by
      rw [absorbAll, singles, dataBytes_eq_map data hn, List.map_map, List.map_map]
      rfl
    rw [← hlist, hrun, hr hne, respond_eq_withRsp]

end Sys2Proof.Proofs
end

section
/-! Proofs about whole messages (42_absorb.md R154, 43_finalize.md R175, R178): what the state holds after INIT and
ABSORBs is a function of the bytes, and FINALIZE makes it the digest of the padded message. -/

namespace Sys2Proof.Proofs

open Sys2Proof Sys2Proof.Machine Sys2Proof.Reference

/-! ### Blocks of a byte sequence -/

theorem blockAt_getElem (m : List Byte) (k : Nat) {j : Nat} (hj : j < 64) :
    (blockAt m k)[j] = m.getD (64 * k + j) 0 := by
  simp [blockAt]

/-- The k-th block is the 64 bytes from place 64k on. -/
theorem blockAt_eq {m : List Byte} {k : Nat} {blk : Block} (hblk : blk.toList <+: m.drop (64 * k)) :
    blockAt m k = blk := by
  obtain ⟨rest, hrest⟩ := hblk
  apply Vector.ext
  intro j hj
  have hplace : m[64 * k + j]? = some blk[j] := by
    rw [← List.getElem?_drop, ← hrest, List.getElem?_append_left (by simpa using hj)]
    simp
  rw [blockAt_getElem m k hj, List.getD_eq_getElem?_getD, hplace, Option.getD_some]

/-- A block that lies inside the sequence does not change when bytes are added at its end. -/
theorem blockAt_append (m x : List Byte) {k : Nat} (hk : 64 * k + 64 ≤ m.length) :
    blockAt (m ++ x) k = blockAt m k := by
  apply Vector.ext
  intro j hj
  rw [blockAt_getElem _ k hj, blockAt_getElem _ k hj, List.getD_eq_getElem?_getD, List.getD_eq_getElem?_getD,
    List.getElem?_append_left (by omega)]

theorem chain_append (m x : List Byte) {n : Nat} (hn : 64 * n ≤ m.length) : chain (m ++ x) n = chain m n := by
  induction n with
  | zero => rfl
  | succ n ih => rw [chain, chain, ih (by omega), blockAt_append m x (by omega)]

/-! ### The state after the first bytes of the message -/

/-- The state holds the message bytes `m`: the full blocks counted and compressed, the rest in BUF (R154). -/
structure HoldsMessage (m : List Byte) (s : State) : Prop where
  blkcnt_eq : s.blkcnt.toNat = m.length / 64
  bufcnt_eq : s.bufcnt.toNat = m.length % 64
  buf_eq : ∀ k, cellRead s.buf k = if k < m.length % 64 then m[64 * (m.length / 64) + k]? else none
  h_eq : s.h = chain m (m.length / 64)

theorem holdsMessage_startMessage (s : State) : HoldsMessage [] (startMessage s) where
  blkcnt_eq := rfl
  bufcnt_eq := rfl
  buf_eq := fun _ => rfl
  h_eq := rfl

/-- After one more byte has landed BUF holds what follows the last full block. -/
theorem cellRead_landByte_of_holdsMessage {m : List Byte} {s : State} (hm : HoldsMessage m s) (b : Byte) (k : Nat) :
    cellRead (landByte b s).buf k =
      if k < m.length % 64 + 1 then (m ++ [b])[64 * (m.length / 64) + k]? else none := by
  have hparts := Nat.div_add_mod m.length 64
  rw [landByte, cellRead_cellWrite, hm.bufcnt_eq, hm.buf_eq]
  rcases Nat.lt_trichotomy k (m.length % 64) with hbelow | hplace | habove
  · rw [if_neg (by omega), if_pos hbelow, if_pos (by omega), List.getElem?_append_left (by omega)]
  · have hlast : 64 * (m.length / 64) + k = m.length := by omega
    rw [if_pos hplace, if_pos (by omega), hlast, List.getElem?_concat_length]
  · rw [if_neg (by omega), if_neg (by omega), if_neg (by omega)]

theorem holdsMessage_landByte {m : List Byte} {s : State} (hm : HoldsMessage m s) (b : Byte)
    (hopen : m.length % 64 < 63) : HoldsMessage (m ++ [b]) (landByte b s) := by
  have hlength : (m ++ [b]).length = m.length + 1 := by simp
  have hblocks : (m.length + 1) / 64 = m.length / 64 := by omega
  have hleft : (m.length + 1) % 64 = m.length % 64 + 1 := by omega
  have hcount := hm.bufcnt_eq
  exact {
    blkcnt_eq := by rw [hlength, hblocks]; exact hm.blkcnt_eq
    bufcnt_eq := by rw [landByte_bufcnt (by omega), hlength, hleft, hcount]
    buf_eq := fun k => by rw [hlength, hblocks, hleft]; exact cellRead_landByte_of_holdsMessage hm b k
    h_eq := by
      rw [hlength, hblocks, chain_append m [b] (by omega)]
      exact hm.h_eq }

/-- The byte that completes a block has it compressed, and the next one is empty. -/
theorem holdsMessage_flush {m : List Byte} {s : State} (hm : HoldsMessage m s) (b : Byte)
    (hfull : m.length % 64 = 63) (hlimit : m.length + 1 < 2 ^ 61) :
    ∃ t, flush (landByte b s) = .next t ∧ HoldsMessage (m ++ [b]) t := by
  have hlength : (m ++ [b]).length = m.length + 1 := by simp
  have hblocks : (m.length + 1) / 64 = m.length / 64 + 1 := by omega
  have hleft : (m.length + 1) % 64 = 0 := by omega
  have hread : cellReads (landByte b s).buf 0 64 = some (blockAt (m ++ [b]) (m.length / 64)).toList := by
    refine (cellReads_eq_some _ _ _ _).mpr ⟨by simp, fun j hj => ?_⟩
    have hinside : 64 * (m.length / 64) + j < (m ++ [b]).length := by omega
    rw [Nat.zero_add, cellRead_landByte_of_holdsMessage hm, if_pos (by omega), Vector.getElem?_toList,
      getElem?_pos (blockAt (m ++ [b]) (m.length / 64)) j hj, blockAt_getElem _ _ hj, List.getD_eq_getElem?_getD,
      List.getElem?_eq_getElem hinside, Option.getD_some]
  have hcount : (s.blkcnt + 1).toNat = m.length / 64 + 1 := by
    rw [blkcnt_succ (by rw [hm.blkcnt_eq]; omega), hm.blkcnt_eq]
  refine ⟨_, flush_eq_next.mpr ⟨_, hread, rfl⟩, ?_⟩
  exact {
    blkcnt_eq := by rw [hlength, hblocks]; exact hcount
    bufcnt_eq := by rw [hlength, hleft]; exact startBlock_bufcnt_toNat _
    buf_eq := fun k => by rw [hlength, hleft, startBlock_buf, cellRead_nil, if_neg (Nat.not_lt_zero k)]
    h_eq := by
      have hbefore : (landByte b s).h = chain m (m.length / 64) := hm.h_eq
      rw [hlength, hblocks, chain, chain_append m [b] (by omega), startBlock_h, compress_h, hbefore] }

theorem holdsMessage_absorbByte {m : List Byte} {s : State} (hm : HoldsMessage m s) (b : Byte)
    (hlimit : m.length + 1 < 2 ^ 61) : ∃ t, absorbByte b s = .next t ∧ HoldsMessage (m ++ [b]) t := by
  have hcount := hm.bufcnt_eq
  by_cases hopen : m.length % 64 < 63
  · exact ⟨_, absorbByte_of_lt (by omega), holdsMessage_landByte hm b hopen⟩
  · rw [absorbByte_of_eq (by omega)]
    exact holdsMessage_flush hm b (by omega) hlimit

theorem holdsMessage_absorbBytes (bs : List Byte) {m : List Byte} {s : State} (hm : HoldsMessage m s)
    (hlimit : m.length + bs.length < 2 ^ 61) : ∃ t, absorbBytes bs s = .next t ∧ HoldsMessage (m ++ bs) t := by
  induction bs generalizing m s with
  | nil => exact ⟨s, rfl, by rwa [List.append_nil]⟩
  | cons b bs ih =>
    rw [List.length_cons] at hlimit
    obtain ⟨u, hbyte, hu⟩ := holdsMessage_absorbByte hm b (by omega)
    obtain ⟨t, hrest, ht⟩ := ih hu (by rw [List.length_append, List.length_singleton]; omega)
    exact ⟨t, andThen_eq_next.mpr ⟨u, hbyte, hrest⟩, by rwa [List.append_cons]⟩

/-! ### INIT and ABSORBs -/

/-- INIT and ABSORBs of fewer than 2^61 bytes complete, and then the state holds the bytes. -/
theorem execAll_init_absorbAll (s : State) {cs : List (BitVec 3 × Word)} (hcs : ∀ c ∈ cs, c.1.toNat ≤ 4)
    (hlimit : (bytesOf cs).length < 2 ^ 61) :
    ∃ t, execAll (.init :: absorbAll cs) s = .next t ∧ HoldsMessage (bytesOf cs) t ∧ t.err = false ∧
      t.phase = .active ∧ t.digest = s.digest := by
  have hstart : HoldsMessage [] (respond 0 (startMessage s)) := { holdsMessage_startMessage s with }
  have hempty : (respond 0 (startMessage s)).messageBytes = 0 := rfl
  obtain ⟨u, habsorb, hu⟩ := holdsMessage_absorbBytes (bytesOf cs) hstart (by simpa using hlimit)
  obtain ⟨r, hrun, -⟩ := execAll_of_absorbBytes rfl rfl hcs (by omega) habsorb
  obtain ⟨hdigest, hphase, -, herr, -⟩ := absorbBytes_frame habsorb
  exact ⟨withRsp r u, hrun, { hu with }, herr, hphase, hdigest⟩

/-- Settles O19: the fields of `HoldsMessage` after `execAll_init_absorbAll`. -/
theorem chunkInvariantState : Obligations.ChunkInvariantState := by
  intro s cs hcs hlimit
  obtain ⟨t, hrun, hm, herr, hphase, hdigest⟩ := execAll_init_absorbAll s hcs hlimit
  exact ⟨t, hrun, herr, hphase, hdigest, hm.blkcnt_eq, hm.bufcnt_eq, hm.buf_eq, hm.h_eq⟩

/-! ### Padding -/

/-- The bytes after the last full block. -/
def leftover (m : List Byte) : List Byte := m.drop (64 * (m.length / 64))

theorem leftover_length (m : List Byte) : (leftover m).length = m.length % 64 := by
  rw [leftover, List.length_drop]
  omega

/-- They are what BUF holds. -/
theorem cellReads_of_holdsMessage {m : List Byte} {s : State} (hm : HoldsMessage m s) :
    cellReads s.buf 0 s.bufcnt.toNat = some (leftover m) := by
  rw [hm.bufcnt_eq]
  refine (cellReads_eq_some _ _ _ _).mpr ⟨leftover_length m, fun j hj => ?_⟩
  rw [Nat.zero_add, hm.buf_eq, if_pos hj, leftover, List.getElem?_drop]

/-- LENGTH() is the length in bits of the bytes held (R171). -/
theorem lengthBits_of_holdsMessage {m : List Byte} {s : State} (hm : HoldsMessage m s) :
    s.lengthBits = BitVec.ofNat 64 (8 * m.length) := by
  have hbits : s.blkcnt.toNat * 512 + s.bufcnt.toNat * 8 = 8 * m.length := by
    rw [hm.blkcnt_eq, hm.bufcnt_eq]
    omega
  rw [lengthBits_eq_ofNat, hbits]

/-- The padded message after the last full block of the message. -/
theorem padded_drop (m : List Byte) :
    (padded m).drop (64 * (m.length / 64)) = leftover m ++ [0x80#8] ++ zeros ((55 + 63 * m.length) % 64)
      ++ be64 (BitVec.ofNat 64 (8 * m.length)) := by
  simp only [padded, leftover, zeros, List.append_assoc]
  rw [List.drop_append_of_le_length (by omega)]

theorem padded_length (m : List Byte) : (padded m).length = m.length + 1 + (55 + 63 * m.length) % 64 + 8 := by
  simp [padded]
  omega

/-- The full blocks of the message are those of the padded message. -/
theorem chain_padded (m : List Byte) : chain (padded m) (m.length / 64) = chain m (m.length / 64) := by
  simp only [padded, List.append_assoc]
  exact chain_append m _ (by omega)

/-- The padding blocks of FINALIZE are the last blocks of the padded message: H becomes the chain over all of it (R175,
R178). -/
theorem padAndCompress_of_holdsMessage {m : List Byte} {s : State} (hm : HoldsMessage m s) :
    ∃ u, padAndCompress s.lengthBits (leftover m) s = .next u ∧
      u.h = chain (padded m) ((padded m).length / 64) := by
  have hlength := leftover_length m
  have hpadded := padded_length m
  have hdrop := padded_drop m
  obtain ⟨u, hpad, hblocks⟩ := padAndCompress_blocks s.lengthBits (m := leftover m) s (by omega)
  refine ⟨u, hpad, ?_⟩
  rw [lengthBits_of_holdsMessage hm, hm.h_eq, ← chain_padded] at hblocks
  split at hblocks
  · next hone =>
    obtain ⟨p1, hp1, hh⟩ := hblocks
    have hzeros : (55 + 63 * m.length) % 64 = 55 - (leftover m).length := by omega
    have hfirst : blockAt (padded m) (m.length / 64) = p1 := blockAt_eq (by rw [hdrop, hzeros, hp1])
    have hcount : (padded m).length / 64 = m.length / 64 + 1 := by omega
    rw [hh, hcount, chain, hfirst]
  · next htwo =>
    obtain ⟨p1, p2, hp1, hp2, hh⟩ := hblocks
    have hzeros : zeros ((55 + 63 * m.length) % 64) = zeros (63 - (leftover m).length) ++ zeros 56 := by
      rw [zeros, zeros, zeros, List.replicate_append_replicate]
      exact congrArg (List.replicate · _) (by omega)
    have hlast : (padded m).drop (64 * (m.length / 64)) = p1.toList ++ p2.toList := by
      rw [hdrop, hzeros, hp1, hp2]
      simp only [List.append_assoc]
    have hfirst : blockAt (padded m) (m.length / 64) = p1 := blockAt_eq ⟨p2.toList, hlast.symm⟩
    have hsecond : blockAt (padded m) (m.length / 64 + 1) = p2 := by
      refine blockAt_eq ?_
      rw [Nat.mul_add, ← List.drop_drop, hlast, List.drop_left' (by simp)]
    have hcount : (padded m).length / 64 = m.length / 64 + 1 + 1 := by omega
    rw [hh, hcount, chain, chain, hfirst, hsecond]

/-! ### The pseudo-operation DIGEST -/

/-- BE32 of four bytes put side by side is the four bytes. -/
theorem be32_append (b0 b1 b2 b3 : Byte) : be32 (b0 ++ b1 ++ b2 ++ b3) = [b0, b1, b2, b3] := by
  have h0 : wordByte (b0 ++ b1 ++ b2 ++ b3) 0 = b0 := by
    rw [wordByte, BitVec.extractLsb'_append_eq_of_le (by decide), BitVec.extractLsb'_append_eq_of_le (by decide),
      BitVec.extractLsb'_append_eq_left]
  have h1 : wordByte (b0 ++ b1 ++ b2 ++ b3) 1 = b1 := by
    rw [wordByte, BitVec.extractLsb'_append_eq_of_le (by decide), BitVec.extractLsb'_append_eq_of_le (by decide),
      BitVec.extractLsb'_append_eq_of_add_le (by decide), BitVec.extractLsb'_eq_self]
  have h2 : wordByte (b0 ++ b1 ++ b2 ++ b3) 2 = b2 := by
    rw [wordByte, BitVec.extractLsb'_append_eq_of_le (by decide), BitVec.extractLsb'_append_eq_of_add_le (by decide),
      BitVec.extractLsb'_eq_self]
  have h3 : wordByte (b0 ++ b1 ++ b2 ++ b3) 3 = b3 := by
    rw [wordByte, BitVec.extractLsb'_append_eq_of_add_le (by decide), BitVec.extractLsb'_eq_self]
  rw [be32, h0, h1, h2, h3]

theorem dataBytes_append (n : BitVec 3) (b0 b1 b2 b3 : Byte) :
    dataBytes n (b0 ++ b1 ++ b2 ++ b3) = [b0, b1, b2, b3].take n.toNat := by
  rw [dataBytes, be32_append]

theorem append_zero16 (b0 b1 : Byte) : b0 ++ b1 ++ 0#16 = b0 ++ b1 ++ 0#8 ++ 0#8 := by
  rw [BitVec.append_assoc (x₁ := b0 ++ b1)]
  rfl

theorem append_zero24 (b0 : Byte) : b0 ++ 0#24 = b0 ++ 0#8 ++ 0#8 ++ 0#8 := by
  rw [BitVec.append_assoc, BitVec.append_assoc]
  rfl

/-- ABSORBS m is a sequence of ABSORBs that carry m (R81): four bytes a command, and the last one to three. -/
theorem absorbs_eq_absorbAll (m : List Byte) :
    ∃ cs, absorbs m = absorbAll cs ∧ bytesOf cs = m ∧ ∀ c ∈ cs, c.1.toNat ≤ 4 := by
  induction m using absorbs.induct with
  | case1 b0 b1 b2 b3 rest ih =>
    obtain ⟨cs, hlist, hbytes, hcs⟩ := ih
    refine ⟨(4, b0 ++ b1 ++ b2 ++ b3) :: cs, by rw [absorbs, hlist]; rfl, ?_,
      List.forall_mem_cons.mpr ⟨Nat.le_refl 4, hcs⟩⟩
    rw [bytesOf_cons cs (by decide), dataBytes_append, hbytes]
    rfl
  | case2 b0 b1 b2 =>
    refine ⟨[(3, b0 ++ b1 ++ b2 ++ 0#8)], rfl, ?_, by simp⟩
    rw [bytesOf_cons [] (by decide), dataBytes_append]
    rfl
  | case3 b0 b1 =>
    refine ⟨[(2, b0 ++ b1 ++ 0#16)], rfl, ?_, by simp⟩
    rw [bytesOf_cons [] (by decide), append_zero16, dataBytes_append]
    rfl
  | case4 b0 =>
    refine ⟨[(1, b0 ++ 0#24)], rfl, ?_, by simp⟩
    rw [bytesOf_cons [] (by decide), append_zero24, dataBytes_append]
    rfl
  | case5 => exact ⟨[], rfl, rfl, nofun⟩

theorem toList_eq_five (h : Vector Word 5) : h.toList = [h[0], h[1], h[2], h[3], h[4]] := by
  apply List.ext_getElem (by simp)
  intro j hj _
  have hj : j < 5 := by simpa using hj
  interval_cases j <;> rfl

/-- DIGEST is BE32 of each word of H in order (R174). -/
theorem digestOf_toList (h : Vector Word 5) : (digestOf h).toList = h.toList.flatMap be32 := by
  rw [toList_eq_five]
  rfl

theorem errorOf_respond (i : Instr) (w : Word) (s : State) : errorOf i (respond w s) = errorOf i s := by
  cases i <;> rfl

theorem valueOf_respond (i : Instr) (w : Word) (s : State) : valueOf i (respond w s) = valueOf i s := by
  cases i <;> rfl

/-- Reads to which the table gives no error answer their values one after another, none disturbing the next (R56). -/
theorem answers_of_reads {is : List Instr} {s : State} (herr : s.err = false)
    (hreads : ∀ i ∈ is, isRead i = true ∧ errorOf i s = none) : answers is s = is.map fun i => valueOf i s := by
  induction is generalizing s with
  | nil => rfl
  | cons i is ih =>
    obtain ⟨⟨hread, hnone⟩, his⟩ := List.forall_mem_cons.mp hreads
    have hrest := ih (s := respond (valueOf i s) s) herr fun j hj => by rw [errorOf_respond]; exact his j hj
    simp only [valueOf_respond] at hrest
    rw [answers, exec_read_of_errorOf_none hread (.inl herr) hnone]
    exact congrArg (valueOf i s :: ·) hrest

/-- With the digest of H in DIGEST the five reads of the pseudo-operation answer the words of H. -/
theorem answers_digestReads {s : State} (herr : s.err = false) (hvalid : s.dvalid = true)
    (hdigest : s.digest = digestOf s.h) : answers digestReads s = s.h.toList := by
  have hreads : ∀ i ∈ digestReads, isRead i = true ∧ errorOf i s = none := by
    simp [digestReads, isRead, errorOf, hvalid]
  have hword (k : BitVec 3) (hk : k.toNat ≤ 4) : valueOf (.rddig k) s = s.h[k.toNat] := by
    rw [valueOf_rddig s hk]
    exact wordBE_eq_of_bytes (hdigest ▸ digestOf_getElem s.h) (by omega)
  rw [answers_of_reads herr hreads, toList_eq_five]
  simp only [digestReads, List.map_cons, List.map_nil, hword 0 (by decide), hword 1 (by decide), hword 2 (by decide),
    hword 3 (by decide), hword 4 (by decide)]
  rfl

/-- Settles O23: INIT and ABSORBS hold the message (`execAll_init_absorbAll`), FINALIZE chains H over its padding
(`padAndCompress_of_holdsMessage`) and serializes it, and the reads answer it back. -/
theorem digestOfWholeMessage : Obligations.DigestOfWholeMessage := by
  intro s m hlimit
  obtain ⟨cs, hlist, hbytes, hcs⟩ := absorbs_eq_absorbAll m
  obtain ⟨t, hrun, hm, herr, hphase, -⟩ := execAll_init_absorbAll s hcs (hbytes ▸ hlimit)
  rw [hbytes] at hm
  obtain ⟨u, hpad, hh⟩ := padAndCompress_of_holdsMessage hm
  have hopen : t.bufcnt.toNat ≤ 63 := by rw [hm.bufcnt_eq]; omega
  have hfinalize := exec_finalize_of_padAndCompress herr hphase hopen (cellReads_of_holdsMessage hm) hpad
  rw [respond_consume_serialize_frame hpad] at hfinalize
  have hdigest : (digestOf u.h).toList = digest m := by rw [digestOf_toList, hh, digest]
  have hcommands {v : State} (hv : exec .finalize t = .next v) : execAll (digestCommands m) s = .next v := by
    rw [digestCommands, hlist, ← List.cons_append, execAll_append]
    exact andThen_eq_next.mpr ⟨t, hrun, andThen_eq_next.mpr ⟨v, hv, rfl⟩⟩
  refine ⟨_, hcommands hfinalize, rfl, rfl, herr, hdigest, ?_⟩
  rw [← hdigest, digestOf_toList]
  exact congrArg (List.flatMap be32) (answers_digestReads herr rfl rfl)

end Sys2Proof.Proofs
end
